-- ==== Sys2Proof/Word.lean ====
section
/-! DEFINITION. The widths of this hardware's values (00_scope.md R4, R6): every value is an unsigned bit string. -/

namespace Sys2Proof

/-- A 4-bit field: a register index `x` or `y`, a row count `n` (R72). -/
abbrev Nibble := BitVec 4

/-- An 8-bit value: a general register, a timer, a memory byte, an immediate `kk`. -/
abbrev Byte := BitVec 8

/-- The 12-bit address field `nnn` (R72). -/
abbrev Addr := BitVec 12

/-- A 16-bit value: an instruction word, `pc`, `I`, a stack entry. -/
abbrev Word := BitVec 16

end Sys2Proof
end

