-- ==== Sys2Proof/Syntax.lean ====
section
/-! DEFINITION. The instruction set: one constructor per category of 30_encoding.md R85, in the order of its tags.

An instruction keeps every field of its word that its category does not fix, also a field the semantics ignores
(R73, R75): the low nibble of skip-equal-registers and skip-not-equal-registers, the `y` of the two shifts, the `nnn`
of sys. So the raw opcode of the Instruction record (R75) is a function of the instruction: `encode` in Decode.lean. -/

namespace Sys2Proof

inductive Instr where
  /-- `00E0` (R170) -/
  | clearScreen
  /-- `00EE`, return (R121) -/
  | ret
  /-- `1nnn` (R122) -/
  | jump (nnn : Addr)
  /-- `2nnn` (R123) -/
  | call (nnn : Addr)
  /-- `3xkk` (R124) -/
  | skipEqualImmediate (x : Nibble) (kk : Byte)
  /-- `4xkk` (R125) -/
  | skipNotEqualImmediate (x : Nibble) (kk : Byte)
  /-- `5xy-`, the low nibble `n` ignored (R126, R84) -/
  | skipEqualRegisters (x y n : Nibble)
  /-- `6xkk` (R140) -/
  | loadImmediate (x : Nibble) (kk : Byte)
  /-- `7xkk` (R141) -/
  | addImmediate (x : Nibble) (kk : Byte)
  /-- `8xy0` (R142) -/
  | loadRegister (x y : Nibble)
  /-- `8xy1`, or (R143) -/
  | orRegisters (x y : Nibble)
  /-- `8xy2`, and (R144) -/
  | andRegisters (x y : Nibble)
  /-- `8xy3`, xor (R145) -/
  | xorRegisters (x y : Nibble)
  /-- `8xy4` (R146) -/
  | addRegisters (x y : Nibble)
  /-- `8xy5` (R147) -/
  | subRegisters (x y : Nibble)
  /-- `8xy6`, `y` ignored (R149, R150) -/
  | shiftRight (x y : Nibble)
  /-- `8xy7` (R148) -/
  | subReverse (x y : Nibble)
  /-- `8xyE`, `y` ignored (R151, R150) -/
  | shiftLeft (x y : Nibble)
  /-- `9xy-`, the low nibble `n` ignored (R127, R84) -/
  | skipNotEqualRegisters (x y n : Nibble)
  /-- `Annn` (R160) -/
  | loadIndexImmediate (nnn : Addr)
  /-- `Bnnn` (R128) -/
  | jumpWithOffset (nnn : Addr)
  /-- `Cxkk` (R180) -/
  | randomAndMask (x : Nibble) (kk : Byte)
  /-- `Dxyn` (R171) -/
  | drawSprite (x y n : Nibble)
  /-- `Ex9E` (R181) -/
  | skipIfKeyPressed (x : Nibble)
  /-- `ExA1` (R182) -/
  | skipIfKeyNotPressed (x : Nibble)
  /-- `Fx07` (R184) -/
  | loadFromDelayTimer (x : Nibble)
  /-- `Fx0A` (R183) -/
  | loadFromKeyBlocking (x : Nibble)
  /-- `Fx15` (R185) -/
  | loadToDelayTimer (x : Nibble)
  /-- `Fx18` (R186) -/
  | loadToSoundTimer (x : Nibble)
  /-- `Fx1E` (R161) -/
  | addToIndex (x : Nibble)
  /-- `Fx29` (R162) -/
  | loadFontAddress (x : Nibble)
  /-- `Fx33` (R163) -/
  | storeBcd (x : Nibble)
  /-- `Fx55` (R164) -/
  | storeRegistersToMemory (x : Nibble)
  /-- `Fx65` (R165) -/
  | loadRegistersFromMemory (x : Nibble)
  /-- `0nnn` except `00E0` and `00EE`, `nnn` ignored (R120, R80) -/
  | sys (nnn : Addr)
  deriving DecidableEq, Repr

end Sys2Proof
end

