-- ==== Sys2Proof/WellFormed.lean ====
section
/-! DEFINITION. Which instruction terms are instructions of the map (30_encoding.md R80, R85).

The field widths are in the types, so one check is left: the words `00E0` and `00EE` belong to clear-screen and return,
so no sys has them. -/

namespace Sys2Proof

/-- `nnn` is one a sys word may have: neither clear-screen's nor return's (R80). -/
def sysField (nnn : Addr) : Bool := nnn != 0x0E0#12 && nnn != 0x0EE#12

/-- The instruction is one that some word decodes to. -/
def Instr.wellFormed : Instr → Bool
  | .clearScreen => true
  | .ret => true
  | .jump _ => true
  | .call _ => true
  | .skipEqualImmediate _ _ => true
  | .skipNotEqualImmediate _ _ => true
  | .skipEqualRegisters _ _ _ => true
  | .loadImmediate _ _ => true
  | .addImmediate _ _ => true
  | .loadRegister _ _ => true
  | .orRegisters _ _ => true
  | .andRegisters _ _ => true
  | .xorRegisters _ _ => true
  | .addRegisters _ _ => true
  | .subRegisters _ _ => true
  | .shiftRight _ _ => true
  | .subReverse _ _ => true
  | .shiftLeft _ _ => true
  | .skipNotEqualRegisters _ _ _ => true
  | .loadIndexImmediate _ => true
  | .jumpWithOffset _ => true
  | .randomAndMask _ _ => true
  | .drawSprite _ _ _ => true
  | .skipIfKeyPressed _ => true
  | .skipIfKeyNotPressed _ => true
  | .loadFromDelayTimer _ => true
  | .loadFromKeyBlocking _ => true
  | .loadToDelayTimer _ => true
  | .loadToSoundTimer _ => true
  | .addToIndex _ => true
  | .loadFontAddress _ => true
  | .storeBcd _ => true
  | .storeRegistersToMemory _ => true
  | .loadRegistersFromMemory _ => true
  | .sys nnn => sysField nnn

end Sys2Proof
end

