-- ==== Sys2Proof/Decode.lean ====
section
/-! DEFINITION. The Decoder block (30_encoding.md R70 to R91), the encoder written from the same map, and the Decoder's
ports (R71). The opcode values are those of R85 (decision D3, log 9). -/

namespace Sys2Proof

/-- Why bytes are no instruction. The first three are the spec's `DecodeFault`, told apart by the family whose
discriminator has no category (R81, R82, R83, R88). -/
inductive DecodeReject where
  /-- family 8 has no category for this `n` (R81) -/
  | family8 (n : Nibble)
  /-- family E has no category for this `kk` (R82) -/
  | familyE (kk : Byte)
  /-- family F has no category for this `kk` (R83) -/
  | familyF (kk : Byte)
  /-- fewer than the two bytes every instruction has (R70): the byte-list decoder alone answers this -/
  | fewerThanTwoBytes
  deriving DecidableEq, Repr

/-! ### Fields (R72) -/

/-- `highNibble = bits[15:12]` -/
def fieldHigh (w : Word) : Nibble := w.extractLsb' 12 4
/-- `x = bits[11:8]` -/
def fieldX (w : Word) : Nibble := w.extractLsb' 8 4
/-- `y = bits[7:4]` -/
def fieldY (w : Word) : Nibble := w.extractLsb' 4 4
/-- `n = bits[3:0]` -/
def fieldN (w : Word) : Nibble := w.extractLsb' 0 4
/-- `kk = bits[7:0]` -/
def fieldKk (w : Word) : Byte := w.extractLsb' 0 8
/-- `nnn = bits[11:0]` -/
def fieldNnn (w : Word) : Addr := w.extractLsb' 0 12

/-! ### Classification (R79 to R84) -/

/-- Family 0: an exact match of the whole word, else sys (R80; decision D4, log 10). -/
def decodeFamily0 (w : Word) : Instr :=
  if w = 0x00E0#16 then .clearScreen
  else if w = 0x00EE#16 then .ret
  else .sys (fieldNnn w)

/-- Family 8, discriminator `n` (R81). -/
def decodeFamily8 (w : Word) : Except DecodeReject Instr :=
  match fieldN w with
  | 0x0#4 => .ok (.loadRegister (fieldX w) (fieldY w))
  | 0x1#4 => .ok (.orRegisters (fieldX w) (fieldY w))
  | 0x2#4 => .ok (.andRegisters (fieldX w) (fieldY w))
  | 0x3#4 => .ok (.xorRegisters (fieldX w) (fieldY w))
  | 0x4#4 => .ok (.addRegisters (fieldX w) (fieldY w))
  | 0x5#4 => .ok (.subRegisters (fieldX w) (fieldY w))
  | 0x6#4 => .ok (.shiftRight (fieldX w) (fieldY w))
  | 0x7#4 => .ok (.subReverse (fieldX w) (fieldY w))
  | 0xE#4 => .ok (.shiftLeft (fieldX w) (fieldY w))
  | n => .error (.family8 n)

/-- Family E, discriminator `kk` (R82). -/
def decodeFamilyE (w : Word) : Except DecodeReject Instr :=
  match fieldKk w with
  | 0x9E#8 => .ok (.skipIfKeyPressed (fieldX w))
  | 0xA1#8 => .ok (.skipIfKeyNotPressed (fieldX w))
  | kk => .error (.familyE kk)

/-- Family F, discriminator `kk` (R83). -/
def decodeFamilyF (w : Word) : Except DecodeReject Instr :=
  match fieldKk w with
  | 0x07#8 => .ok (.loadFromDelayTimer (fieldX w))
  | 0x0A#8 => .ok (.loadFromKeyBlocking (fieldX w))
  | 0x15#8 => .ok (.loadToDelayTimer (fieldX w))
  | 0x18#8 => .ok (.loadToSoundTimer (fieldX w))
  | 0x1E#8 => .ok (.addToIndex (fieldX w))
  | 0x29#8 => .ok (.loadFontAddress (fieldX w))
  | 0x33#8 => .ok (.storeBcd (fieldX w))
  | 0x55#8 => .ok (.storeRegistersToMemory (fieldX w))
  | 0x65#8 => .ok (.loadRegistersFromMemory (fieldX w))
  | kk => .error (.familyF kk)

/-- The Decoder: total on the 65536 words, an instruction or `DecodeFault` (R71, R79). -/
def decodeWord (w : Word) : Except DecodeReject Instr :=
  match fieldHigh w with
  | 0x0#4 => .ok (decodeFamily0 w)
  | 0x1#4 => .ok (.jump (fieldNnn w))
  | 0x2#4 => .ok (.call (fieldNnn w))
  | 0x3#4 => .ok (.skipEqualImmediate (fieldX w) (fieldKk w))
  | 0x4#4 => .ok (.skipNotEqualImmediate (fieldX w) (fieldKk w))
  | 0x5#4 => .ok (.skipEqualRegisters (fieldX w) (fieldY w) (fieldN w))
  | 0x6#4 => .ok (.loadImmediate (fieldX w) (fieldKk w))
  | 0x7#4 => .ok (.addImmediate (fieldX w) (fieldKk w))
  | 0x8#4 => decodeFamily8 w
  | 0x9#4 => .ok (.skipNotEqualRegisters (fieldX w) (fieldY w) (fieldN w))
  | 0xA#4 => .ok (.loadIndexImmediate (fieldNnn w))
  | 0xB#4 => .ok (.jumpWithOffset (fieldNnn w))
  | 0xC#4 => .ok (.randomAndMask (fieldX w) (fieldKk w))
  | 0xD#4 => .ok (.drawSprite (fieldX w) (fieldY w) (fieldN w))
  | 0xE#4 => decodeFamilyE w
  | _ => decodeFamilyF w

/-- The word of two bytes, the high byte first (R53, R63). -/
def wordOfBytes (hi lo : Byte) : Word := hi ++ lo

/-- Decoding on any bytes: the first two bytes are the word, high byte first, and the rest is left (R53, R70). -/
def decodeBytes : List Byte → Except DecodeReject (Instr × List Byte)
  | hi :: lo :: rest =>
    match decodeWord (wordOfBytes hi lo) with
    | .ok i => .ok (i, rest)
    | .error e => .error e
  | _ => .error .fewerThanTwoBytes

/-! ### The encoder (R74, R85) -/

/-- The word of an instruction, its pattern in R85 with the fields in place: the raw opcode of R75. -/
def encode : Instr → Word
  | .clearScreen => 0x00E0#16
  | .ret => 0x00EE#16
  | .jump nnn => 0x1#4 ++ nnn
  | .call nnn => 0x2#4 ++ nnn
  | .skipEqualImmediate x kk => 0x3#4 ++ x ++ kk
  | .skipNotEqualImmediate x kk => 0x4#4 ++ x ++ kk
  | .skipEqualRegisters x y n => 0x5#4 ++ x ++ y ++ n
  | .loadImmediate x kk => 0x6#4 ++ x ++ kk
  | .addImmediate x kk => 0x7#4 ++ x ++ kk
  | .loadRegister x y => 0x8#4 ++ x ++ y ++ 0x0#4
  | .orRegisters x y => 0x8#4 ++ x ++ y ++ 0x1#4
  | .andRegisters x y => 0x8#4 ++ x ++ y ++ 0x2#4
  | .xorRegisters x y => 0x8#4 ++ x ++ y ++ 0x3#4
  | .addRegisters x y => 0x8#4 ++ x ++ y ++ 0x4#4
  | .subRegisters x y => 0x8#4 ++ x ++ y ++ 0x5#4
  | .shiftRight x y => 0x8#4 ++ x ++ y ++ 0x6#4
  | .subReverse x y => 0x8#4 ++ x ++ y ++ 0x7#4
  | .shiftLeft x y => 0x8#4 ++ x ++ y ++ 0xE#4
  | .skipNotEqualRegisters x y n => 0x9#4 ++ x ++ y ++ n
  | .loadIndexImmediate nnn => 0xA#4 ++ nnn
  | .jumpWithOffset nnn => 0xB#4 ++ nnn
  | .randomAndMask x kk => 0xC#4 ++ x ++ kk
  | .drawSprite x y n => 0xD#4 ++ x ++ y ++ n
  | .skipIfKeyPressed x => 0xE#4 ++ x ++ 0x9E#8
  | .skipIfKeyNotPressed x => 0xE#4 ++ x ++ 0xA1#8
  | .loadFromDelayTimer x => 0xF#4 ++ x ++ 0x07#8
  | .loadFromKeyBlocking x => 0xF#4 ++ x ++ 0x0A#8
  | .loadToDelayTimer x => 0xF#4 ++ x ++ 0x15#8
  | .loadToSoundTimer x => 0xF#4 ++ x ++ 0x18#8
  | .addToIndex x => 0xF#4 ++ x ++ 0x1E#8
  | .loadFontAddress x => 0xF#4 ++ x ++ 0x29#8
  | .storeBcd x => 0xF#4 ++ x ++ 0x33#8
  | .storeRegistersToMemory x => 0xF#4 ++ x ++ 0x55#8
  | .loadRegistersFromMemory x => 0xF#4 ++ x ++ 0x65#8
  | .sys nnn => 0x0#4 ++ nnn

/-- The byte at the higher address of a word (R53). -/
def lowByte (w : Word) : Byte := w.extractLsb' 0 8
/-- The byte at the lower address of a word (R53). -/
def highByte (w : Word) : Byte := w.extractLsb' 8 8

/-- The bytes of an instruction as memory holds them, the high byte first (R53). -/
def encodeBytes (i : Instr) : List Byte := [highByte (encode i), lowByte (encode i)]

/-! ### Category tags, the rows of the map, and the Decoder's ports (R71, R76, R85, R89) -/

/-- The category tag, 0 to 34 in the order of R85 (R76; the numbers are decision D2). -/
def categoryTag : Instr → Nat
  | .clearScreen => 0
  | .ret => 1
  | .jump _ => 2
  | .call _ => 3
  | .skipEqualImmediate _ _ => 4
  | .skipNotEqualImmediate _ _ => 5
  | .skipEqualRegisters _ _ _ => 6
  | .loadImmediate _ _ => 7
  | .addImmediate _ _ => 8
  | .loadRegister _ _ => 9
  | .orRegisters _ _ => 10
  | .andRegisters _ _ => 11
  | .xorRegisters _ _ => 12
  | .addRegisters _ _ => 13
  | .subRegisters _ _ => 14
  | .shiftRight _ _ => 15
  | .subReverse _ _ => 16
  | .shiftLeft _ _ => 17
  | .skipNotEqualRegisters _ _ _ => 18
  | .loadIndexImmediate _ => 19
  | .jumpWithOffset _ => 20
  | .randomAndMask _ _ => 21
  | .drawSprite _ _ _ => 22
  | .skipIfKeyPressed _ => 23
  | .skipIfKeyNotPressed _ => 24
  | .loadFromDelayTimer _ => 25
  | .loadFromKeyBlocking _ => 26
  | .loadToDelayTimer _ => 27
  | .loadToSoundTimer _ => 28
  | .addToIndex _ => 29
  | .loadFontAddress _ => 30
  | .storeBcd _ => 31
  | .storeRegistersToMemory _ => 32
  | .loadRegistersFromMemory _ => 33
  | .sys _ => 34

/-- The mask of the row of R85 with this tag: which bits the row fixes. -/
def rowMask (tag : Nat) : Word :=
  match tag with
  | 0 | 1 => 0xFFFF#16
  | 9 | 10 | 11 | 12 | 13 | 14 | 15 | 16 | 17 => 0xF00F#16
  | 23 | 24 | 25 | 26 | 27 | 28 | 29 | 30 | 31 | 32 | 33 => 0xF0FF#16
  | _ => 0xF000#16

/-- The match value of the row of R85 with this tag: what the fixed bits are. -/
def rowMatch (tag : Nat) : Word :=
  match tag with
  | 0 => 0x00E0#16 | 1 => 0x00EE#16 | 2 => 0x1000#16 | 3 => 0x2000#16 | 4 => 0x3000#16
  | 5 => 0x4000#16 | 6 => 0x5000#16 | 7 => 0x6000#16 | 8 => 0x7000#16 | 9 => 0x8000#16
  | 10 => 0x8001#16 | 11 => 0x8002#16 | 12 => 0x8003#16 | 13 => 0x8004#16 | 14 => 0x8005#16
  | 15 => 0x8006#16 | 16 => 0x8007#16 | 17 => 0x800E#16 | 18 => 0x9000#16 | 19 => 0xA000#16
  | 20 => 0xB000#16 | 21 => 0xC000#16 | 22 => 0xD000#16 | 23 => 0xE09E#16 | 24 => 0xE0A1#16
  | 25 => 0xF007#16 | 26 => 0xF00A#16 | 27 => 0xF015#16 | 28 => 0xF018#16 | 29 => 0xF01E#16
  | 30 => 0xF029#16 | 31 => 0xF033#16 | 32 => 0xF055#16 | 33 => 0xF065#16
  | _ => 0x0000#16

/-- The outputs of the Decoder block (R71). -/
structure DecoderPorts where
  /-- the word passed through -/
  raw : Word
  /-- the category tag, 63 on a fault (R89) -/
  cat : BitVec 6
  /-- 1 when the word maps to none of the 35 categories -/
  decodeFault : Bool
  nnn : Addr
  n : Nibble
  x : Nibble
  y : Nibble
  kk : Byte
  deriving DecidableEq, Repr

/-- What the Decoder drives for a word: the fields always, whatever the category (R73), and the tag or 63 (R89). -/
def decoderPorts (w : Word) : DecoderPorts :=
  { raw := w
    cat := match decodeWord w with
      | .ok i => BitVec.ofNat 6 (categoryTag i)
      | .error _ => 63#6
    decodeFault := match decodeWord w with
      | .ok _ => false
      | .error _ => true
    nnn := fieldNnn w, n := fieldN w, x := fieldX w, y := fieldY w, kk := fieldKk w }

/-- The instruction the decoder reads from a word whose bits are numbered as spec/opcode_table.json numbers them
(bit 0 the least significant of the one 16-bit word); bits at and above `nbits` are 0. The word is laid out as the
hardware stores it, high byte first, and given to the byte decoder. -/
def decodeTableWord (nbits w : Nat) : Option Instr :=
  let word : Word := BitVec.ofNat 16 (w % 2 ^ nbits)
  match decodeBytes [highByte word, lowByte word] with
  | .ok (i, _) => some i
  | .error _ => none

end Sys2Proof
end

