-- ==== Sys2Proof/Config.lean ====
section
/-! DEFINITION. The environment inputs of 00_scope.md R10: free values, constants with no body, so that a claim about
them holds whatever they are (log 1, log 2).

The parameters of R4 that have a value are definitions of Machine/Params.lean, where a repair may mend one. -/

namespace Sys2Proof

/-- The random byte `rnd` of one consultation of the environment, a free value (R10, R180; decision D20).
The argument is the number of consultations before it (`State.draws`), so two executions take two unrelated bytes. -/
opaque Config.rnd : Nat → Byte

/-- `KeyDown(k)` as the environment answers it at one consultation, a free bit for every byte `k`
(R10, R181, R182; decision D19). The first argument is as for `Config.rnd`. -/
opaque Config.keyDown : Nat → Byte → Bool

end Sys2Proof
end

