-- ==== Sys2Proof/Machine/Params.lean ====
section
/-! DEFINITION. The parameters of 00_scope.md R4 that have a value, each at the value this hardware takes. -/

namespace Sys2Proof.Machine

/-- `MEM_LIMIT`, the first address that faults (R4, R56; decision D7, log 12). -/
abbrev memLimit : Nat := 0x10000

/-- `PROG_BASE`, the program load address and the `pc` after reset (R4, R40, R228). -/
def progBase : Word := 0x0200

/-- The most program bytes that fit from `PROG_BASE` to the end of memory, 65024 (R51; decision D30, log 27). -/
abbrev maxProgramBytes : Nat := 65024

/-- `FONT_LOAD`, where the font table is at reset (R4, R51). -/
abbrev fontLoad : Nat := 0x050

/-- `FONT_ADDR_BASE`, the base load-font-address adds (R4, R162; decision D14, log 13). -/
def fontAddrBase : Word := 0x0000

/-- `GLYPH`, the bytes of one glyph (R4, R162). -/
def glyphBytes : Word := 5

/-- `FONT_TABLE`, glyphs 0 to F, five bytes each (R222; decision D24, log 8). -/
def fontTable : List Byte :=
  [0xF0, 0x90, 0x90, 0x90, 0xF0] ++ [0x20, 0x60, 0x20, 0x20, 0x70] ++
  [0xF0, 0x10, 0xF0, 0x80, 0xF0] ++ [0xF0, 0x10, 0xF0, 0x10, 0xF0] ++
  [0x90, 0x90, 0xF0, 0x10, 0x10] ++ [0xF0, 0x80, 0xF0, 0x10, 0xF0] ++
  [0xF0, 0x80, 0xF0, 0x90, 0xF0] ++ [0xF0, 0x10, 0x20, 0x40, 0x40] ++
  [0xF0, 0x90, 0xF0, 0x90, 0xF0] ++ [0xF0, 0x90, 0xF0, 0x10, 0xF0] ++
  [0xF0, 0x90, 0xF0, 0x90, 0x90] ++ [0xE0, 0x90, 0xE0, 0x90, 0xE0] ++
  [0xF0, 0x80, 0x80, 0x80, 0xF0] ++ [0xE0, 0x90, 0x90, 0x90, 0xE0] ++
  [0xF0, 0x80, 0xF0, 0x80, 0xF0] ++ [0xF0, 0x80, 0xF0, 0x80, 0x80]

end Sys2Proof.Machine
end

