-- ==== Sys2Proof/Machine/State.lean ====
section
/-! DEFINITION. The machine's state as plain data (10_state.md R20 to R40), the reasons a step may stop, and what a
kernel evaluation answers (40_dispatch_kernel.md R100, R102). -/

namespace Sys2Proof.Machine

/-- `MEM` as its listed cells: addresses strictly rising, none equal to what an unlisted address reads as
(`Memory.wf` in Ops.lean; log 23). -/
abbrev Memory := List Host.Cell

/-- `DISP[r][c]`, 32 rows of 64 columns, `true` a set pixel (R32). -/
abbrev Display := Vector (Vector Bool 64) 32

/-- The engine states (R36, R197). -/
inductive RunState where
  | fetching
  /-- only inside a step (R36, R197) -/
  | executing
  | haltedOnKey
  | haltedOnFault
  deriving DecidableEq, Repr

/-- The spec's three faults (R190). Each is TAKEN: the step answers a next state with `RUN = HaltedOnFault` and the
record set (R200), so they are not constructors of `Fault` below (log 3). -/
inductive FaultKind where
  /-- an unrecognised opcode (R191) -/
  | decodeFault
  /-- an access beyond address 0xFFFF (R192) -/
  | memoryFault
  /-- return on an empty stack, call on a full one (R193) -/
  | stackFault
  deriving DecidableEq, Repr

/-- `FAULTREC`: kind, `pc` of the faulting instruction, and the opcode, absent for a fetch fault (R36, R191 to R193;
decision D26, log 21). -/
structure FaultRec where
  kind : FaultKind
  pc : Word
  opcode : Option Word
  deriving DecidableEq, Repr

@[ext]
structure State where
  /-- `V[0]` to `V[15]` (R20) -/
  v : Vector Byte 16
  /-- the index register `I` (R28) -/
  i : Word
  /-- the address of the instruction being executed (R23) -/
  pc : Word
  /-- `SP`, the number of live stack entries, 0 to 16 (R29) -/
  sp : Fin 17
  /-- `STK[0..15]` (R30) -/
  stk : Vector Word 16
  /-- the delay timer `DT` (R34) -/
  dt : Byte
  /-- the sound timer `ST` (R35) -/
  st : Byte
  /-- `MEM` (R37) -/
  mem : Memory
  /-- `DISP` (R32) -/
  disp : Display
  /-- `RUN` (R36) -/
  run : RunState
  /-- `KEYDST`, the register a key wait will write (R36) -/
  keyDst : Nibble
  /-- `FAULTREC` (R36) -/
  faultRec : Option FaultRec
  /-- the model's own: how often the environment was consulted (R10; log 1) -/
  draws : Nat
  deriving DecidableEq, Repr

/-- The state right after reset (R40, R220). Memory lists nothing: an unlisted address reads as the reset image, the
font table at 0x050 and zero elsewhere. `draws` is the model's own (log 1). -/
def State.reset : State :=
  { v := Vector.replicate 16 0x00#8
    i := 0x0000#16
    pc := progBase
    sp := 0
    stk := Vector.replicate 16 0x0000#16
    dt := 0x00#8
    st := 0x00#8
    mem := []
    disp := Vector.replicate 32 (Vector.replicate 64 false)
    run := .fetching
    keyDst := 0x0#4
    faultRec := none
    draws := 0 }

/-- Why a step stops with no next state. The spec's own faults are not here (see `FaultKind`). -/
inductive Fault where
  /-- Raised by the Engine step alone, and only when `RUN = Executing` before the step: the spec says that value never
  stands between two steps (R36, R197) and gives such a step no rule. SAFE: a stuck state no run reaches (log 4). -/
  | stepWhileExecuting
  deriving DecidableEq, Repr

/-- Why a call has no meaning. -/
inductive Refusal where
  /-- Raised by an arm of `exec` that has no meaning yet; no arm is left that does. SAFE. -/
  | notModelled (mnemonic : String)
  /-- Raised by the host call that loads a program, for one of more than 65024 bytes, which does not fit (R51, R228;
  decision D30). SAFE: the program is refused (log 27). -/
  | programTooLong
  deriving DecidableEq, Repr

/-- The kernel's program-counter action (R102). -/
inductive PcAction where
  | advance
  | skipNext
  | jump (a : Word)
  deriving DecidableEq, Repr

/-- What a kernel evaluation answers (R9, R100): the state with the writes made, `pc` and `RUN` left to the Engine, and
one action; a key wait; or a fault. -/
inductive KernelResult where
  | ok (written : State) (action : PcAction)
  | awaitKey (x : Nibble)
  | fault (kind : FaultKind)
  deriving DecidableEq, Repr

end Sys2Proof.Machine
end

