-- ==== Sys2Proof/Machine/Ops.lean ====
section
/-! DEFINITION. The named operations over state: field updates, registers, memory, the return stack, the display, the
fetch, the program-counter policy, taking a fault, the key wait, and the end of a step. -/

namespace Sys2Proof.Machine

/-! ### Field updates -/

def State.setI (s : State) (a : Word) : State := { s with i := a }
def State.setPc (s : State) (a : Word) : State := { s with pc := a }
def State.setDt (s : State) (b : Byte) : State := { s with dt := b }
def State.setSt (s : State) (b : Byte) : State := { s with st := b }
def State.setMem (s : State) (m : Memory) : State := { s with mem := m }
def State.setDisp (s : State) (d : Display) : State := { s with disp := d }
def State.setRun (s : State) (r : RunState) : State := { s with run := r }
/-- One consultation of the environment is over; the next one takes another free value (R10; log 1). -/
def State.nextDraw (s : State) : State := { s with draws := s.draws + 1 }

/-! ### General registers (R20, R22) -/

/-- `VF`'s index. -/
def vf : Nibble := 0xF#4

/-- `V[r]`. -/
def State.reg (s : State) (r : Nibble) : Byte := s.v[r.toNat]'r.isLt

/-- `V[r] <- b`; no register is hardwired, and `VF` is an ordinary destination (R20, R22; decision D17). -/
def State.setReg (s : State) (r : Nibble) (b : Byte) : State := { s with v := s.v.set r.toNat b r.isLt }

/-! ### Memory (R37, R50 to R58) -/

/-- What a byte of memory holds after reset (R40, R220): the font table at 0x050 to 0x09F, zero elsewhere. This is what
an address that is not listed reads as (log 7, log 8, log 23). -/
def resetByte (a : Nat) : Byte := if fontLoad ≤ a then fontTable.getD (a - fontLoad) 0x00#8 else 0x00#8

/-- The byte at `a` (R58: no side effect). -/
def Memory.read : Memory → Nat → Byte
  | [], a => resetByte a
  | (k, b) :: m, a => if k = a then b else Memory.read m a

/-- Write one byte, keeping the canonical form: a value the unlisted address would read as is not listed. -/
def Memory.write : Memory → Nat → Byte → Memory
  | [], a, b => if b = resetByte a then [] else [(a, b)]
  | (k, c) :: m, a, b =>
    if a < k then (if b = resetByte a then (k, c) :: m else (a, b) :: (k, c) :: m)
    else if a = k then (if b = resetByte a then m else (a, b) :: m)
    else (k, c) :: Memory.write m a b

/-- The canonical form from address `lo` on: rising addresses within memory, none holding its reset byte. -/
def Memory.wfFrom (lo : Nat) : Memory → Bool
  | [] => true
  | (k, b) :: m => decide (lo ≤ k) && decide (k < memLimit) && b != resetByte k && Memory.wfFrom (k + 1) m

/-- The canonical form of a memory. -/
def Memory.wf (m : Memory) : Bool := Memory.wfFrom 0 m

/-- Write bytes at consecutive addresses from `a`, the first byte first (`MemWrite`, R7). -/
def Memory.writeBytes (m : Memory) (a : Nat) : List Byte → Memory
  | [] => m
  | b :: bs => Memory.writeBytes (Memory.write m a b) (a + 1) bs

/-- The bound of every access of `len` bytes at `base` (R56, R57): its last byte lies above 0xFFFF. The address is not
wrapped, and an access of no byte never faults (decisions D7, D8, log 12). -/
def accessFaults (base len : Nat) : Bool := decide (1 ≤ len) && decide (memLimit ≤ base + len - 1)

/-- The byte at address `a`. -/
def State.readByte (s : State) (a : Nat) : Byte := Memory.read s.mem a

/-- `MemWrite(a, n, bytes)` (R7); the caller has checked the bound. -/
def State.storeBytes (s : State) (a : Nat) (bs : List Byte) : State := s.setMem (Memory.writeBytes s.mem a bs)

/-! ### The return stack (R29 to R31, R106, R107; decisions D10, D11, log 17) -/

/-- `push(w)` (R106): a fault on a full stack, else `STK[SP] <- w ; SP <- SP + 1`. -/
def State.push (s : State) (w : Word) : Except FaultKind State :=
  if h : s.sp.val < 16 then
    .ok { s with stk := s.stk.set s.sp.val w h, sp := ⟨s.sp.val + 1, Nat.succ_lt_succ h⟩ }
  else .error .stackFault

/-- `pop()` (R107): a fault on an empty stack, else the old top and the stack without it; the entry itself stays. -/
def State.pop (s : State) : Except FaultKind (Word × State) :=
  if h : s.sp.val = 0 then .error .stackFault
  else
    .ok (s.stk[s.sp.val - 1]'(by have := s.sp.isLt; omega),
      { s with sp := ⟨s.sp.val - 1, by have := s.sp.isLt; omega⟩ })

/-! ### The display (R32, R33) -/

/-- `DISP[r][c]`, both indices wrapped into range before the read (R33). -/
def Display.pixel (d : Display) (r c : Nat) : Bool :=
  (d[r % 32]'(Nat.mod_lt r (by decide)))[c % 64]'(Nat.mod_lt c (by decide))

/-- `DISP[r][c] <- p`, both indices wrapped into range before the write (R33). -/
def Display.setPixel (d : Display) (r c : Nat) (p : Bool) : Display :=
  d.set (r % 32) ((d[r % 32]'(Nat.mod_lt r (by decide))).set (c % 64) p (Nat.mod_lt c (by decide)))
    (Nat.mod_lt r (by decide))

/-- Every pixel 0 (R170). -/
def Display.clear : Display := Vector.replicate 32 (Vector.replicate 64 false)

/-! ### Fetch (R53, R63) -/

/-- The word at `pc` and `pc + 1`, high byte first, or none where `pc + 1` is beyond memory (R63; decision D8). An odd
`pc` is fetched like an even one (R55; decision D21, log 16). -/
def fetch (s : State) : Option Word :=
  if accessFaults s.pc.toNat 2 then none
  else some (wordOfBytes (s.readByte s.pc.toNat) (s.readByte (s.pc.toNat + 1)))

/-- Place a word where the next fetch reads it, as far as memory reaches. -/
def placeWord (s : State) (w : Word) : State :=
  if accessFaults s.pc.toNat 2 then s else s.storeBytes s.pc.toNat [highByte w, lowByte w]

/-! ### Taking a fault, and the way out of it (R196, R200, R202) -/

/-- `halt(kind, pc, opcode)`: `RUN` and `FAULTREC` change and nothing else; `pc` still addresses the faulting
instruction, and there is no handler (R196, R200; log 3, log 21). -/
def State.halt (s : State) (kind : FaultKind) (opcode : Option Word) : State :=
  { s with run := .haltedOnFault, faultRec := some ⟨kind, s.pc, opcode⟩ }

/-- The only way out of a fault, the host's `reset()` (R202, R220, R221): every piece of the spec's state at its reset
value. The environment's consultations are not undone (log 26). -/
def State.hostReset (s : State) : State := { State.reset with draws := s.draws }

/-! ### The key wait (R199, R208, R209; decisions D18, D22, log 18, log 19) -/

/-- The Engine's side of `AwaitKey(x)`: `KEYDST <- x`, `RUN <- HaltedOnKey`, `pc` unchanged (R199). -/
def State.awaitKey (s : State) (x : Nibble) : State := { s with keyDst := x, run := .haltedOnKey }

/-! ### The end of a step (R196, R198) -/

/-- The PC policy (R198), modulo 65536 (decision D12, log 15). -/
def pcPolicy : PcAction → Word → Word
  | .advance, pc => pc + 2
  | .skipNext, pc => pc + 4
  | .jump a, _ => a

/-- Commit the writes, apply the PC policy to the pre-step `pc`, and fetch next (R196). -/
def State.commit (s : State) (written : State) (a : PcAction) : State :=
  { written with pc := pcPolicy a s.pc, run := .fetching }

/-- What the Engine does with the kernel's answer to instruction `i` in pre-step state `s` (R196). A fault records the
raw opcode, which is `encode i` (R75). -/
def finish (i : Instr) (s : State) : KernelResult → Host.Outcome State Fault Refusal
  | .ok written a => .next (s.commit written a)
  | .awaitKey x => .next (s.awaitKey x)
  | .fault k => .next (s.halt k (some (encode i)))

end Sys2Proof.Machine
end

