-- ==== Sys2Proof/Machine/Operands.lean ====
section
/-! DEFINITION. Every operand form of the instruction set (30_encoding.md R77, R78): zero-extended immediates and
registers, memory through `I`, the register blocks, the decimal digits, the bits of a sprite row. All are read from the
pre-step state (R104). -/

namespace Sys2Proof.Machine

/-- `zext_16(nnn)` (R77). -/
def zextAddr (nnn : Addr) : Word := nnn.setWidth 16

/-- `zext_16(b)` for a byte (R110). -/
def zextByte (b : Byte) : Word := b.setWidth 16

/-- The jump-with-offset base is always `V[0]` (R78, R128). -/
def baseReg : Nibble := 0x0#4

/-- The base address of every data access, `I`, as an unbounded integer (R56). -/
def dataBase (s : State) : Nat := s.i.toNat

/-- How many registers `V[0..x]` are (R164, R165). -/
def blockLength (x : Nibble) : Nat := x.toNat + 1

/-- The bytes `V[0], ..., V[x]`, lowest register first (R53, R164). -/
def regBlock (s : State) (x : Nibble) : List Byte :=
  (List.range (blockLength x)).map fun r => s.reg (BitVec.ofNat 4 r)

/-- The register file after `V[r] <- MEM[base + r]` for `r` from 0 to `x` (R165). -/
def loadedRegs (m : Memory) (base : Nat) (x : Nibble) (v : Vector Byte 16) : Vector Byte 16 :=
  Vector.ofFn fun r : Fin 16 => if r.val ≤ x.toNat then Memory.read m (base + r.val) else v[r.val]

/-- `V[0..x]` loaded from `I` on, all memory read before any register is written (R104, R165). -/
def State.loadBlock (s : State) (x : Nibble) : State := { s with v := loadedRegs s.mem (dataBase s) x s.v }

/-- Hundreds, tens and units of a byte, each as a byte 0 to 9 (R163). -/
def bcdDigits (b : Byte) : List Byte :=
  [BitVec.ofNat 8 (b.toNat / 100), BitVec.ofNat 8 (b.toNat / 10 % 10), BitVec.ofNat 8 (b.toNat % 10)]

/-- The sprite pixel of a row byte at column offset `bit`, most significant bit first (R53, R171). -/
def spriteBit (b : Byte) (bit : Nat) : Bool := b.getLsbD (7 - bit)

/-- The environment's answer to the key query (R10, R181): the whole byte is the key index (decision D19, log 20). -/
def keyDown (s : State) (key : Byte) : Bool := Config.keyDown s.draws key

/-- The environment's random byte (R10, R180). -/
def randomByte (s : State) : Byte := Config.rnd s.draws

end Sys2Proof.Machine
end

