-- ==== Sys2Proof/Machine/Flags.lean ====
section
/-! DEFINITION. Every flag computation (10_state.md R26, R27): the byte 0x00 or 0x01 that `VF` is overwritten with. -/

namespace Sys2Proof.Machine

/-- A flag byte. -/
def flagByte (c : Bool) : Byte := if c then 0x01#8 else 0x00#8

/-- Carry of an addition: the mathematical sum is over 255 (R108, R146). -/
def carryFlag (a b : Byte) : Byte := flagByte (decide (255 < a.toNat + b.toNat))

/-- Not-borrow of `a - b`: 1 when `a >= b`, so equality is not-borrow (R108, R147, R148). -/
def notBorrowFlag (a b : Byte) : Byte := flagByte (decide (b.toNat ≤ a.toNat))

/-- The bit a right shift drops, bit 0 (R109, R149). -/
def bit0Flag (a : Byte) : Byte := flagByte (a.getLsbD 0)

/-- The bit a left shift drops, bit 7 of the 8-bit register (R109, R151). -/
def bit7Flag (a : Byte) : Byte := flagByte (a.getLsbD 7)

/-- `VF <- flag`, overwritten wholesale (R27). -/
def State.setFlag (s : State) (flag : Byte) : State := s.setReg vf flag

/-- Result first, flag second: where both go to `VF` the flag wins (R27, R111; decision D15, log 14). -/
def State.setRegAndFlag (s : State) (x : Nibble) (result flag : Byte) : State := (s.setReg x result).setFlag flag

end Sys2Proof.Machine
end

