-- ==== Sys2Proof/Machine/ControlFlow.lean ====
section
/-! DEFINITION. Control flow (41_control_flow.md): sys, return, jump, call, the register skips, jump-with-offset. -/

namespace Sys2Proof.Machine

/-- sys (R120): no operation; it only advances. -/
def kernelSys (_nnn : Addr) (s : State) : KernelResult :=
  .ok s .advance

/-- sys as the Engine runs it: the kernel rule, then the end of the step (R196). -/
def execSys (nnn : Addr) (s : State) : Host.Outcome State Fault Refusal :=
  finish (.sys nnn) s (kernelSys nnn s)

/-- return (R121): resume two bytes after the call whose address is popped (decisions D10, D12, log 17);
an empty stack is a StackFault. -/
def kernelRet (s : State) : KernelResult :=
  match s.pop with
  | .error k => .fault k
  | .ok (a, s') => .ok s' (.jump (a + 2))

/-- return as the Engine runs it: the kernel rule, then the end of the step (R196). -/
def execRet (s : State) : Host.Outcome State Fault Refusal :=
  finish .ret s (kernelRet s)

/-- jump (R122): to `nnn`, odd or even. -/
def kernelJump (nnn : Addr) (s : State) : KernelResult :=
  .ok s (.jump (zextAddr nnn))

/-- jump as the Engine runs it: the kernel rule, then the end of the step (R196). -/
def execJump (nnn : Addr) (s : State) : Host.Outcome State Fault Refusal :=
  finish (.jump nnn) s (kernelJump nnn s)

/-- call (R123): push this instruction's own address and jump to `nnn` (decision D10, log 17);
a full stack is a StackFault. -/
def kernelCall (nnn : Addr) (s : State) : KernelResult :=
  match s.push s.pc with
  | .error k => .fault k
  | .ok s' => .ok s' (.jump (zextAddr nnn))

/-- call as the Engine runs it: the kernel rule, then the end of the step (R196). -/
def execCall (nnn : Addr) (s : State) : Host.Outcome State Fault Refusal :=
  finish (.call nnn) s (kernelCall nnn s)

/-- skip-equal-immediate (R124). -/
def kernelSkipEqualImmediate (x : Nibble) (kk : Byte) (s : State) : KernelResult :=
  .ok s (if s.reg x = kk then .skipNext else .advance)

/-- skip-equal-immediate as the Engine runs it: the kernel rule, then the end of the step (R196). -/
def execSkipEqualImmediate (x : Nibble) (kk : Byte) (s : State) : Host.Outcome State Fault Refusal :=
  finish (.skipEqualImmediate x kk) s (kernelSkipEqualImmediate x kk s)

/-- skip-not-equal-immediate (R125). -/
def kernelSkipNotEqualImmediate (x : Nibble) (kk : Byte) (s : State) : KernelResult :=
  .ok s (if s.reg x ≠ kk then .skipNext else .advance)

/-- skip-not-equal-immediate as the Engine runs it: the kernel rule, then the end of the step (R196). -/
def execSkipNotEqualImmediate (x : Nibble) (kk : Byte) (s : State) : Host.Outcome State Fault Refusal :=
  finish (.skipNotEqualImmediate x kk) s (kernelSkipNotEqualImmediate x kk s)

/-- skip-equal-registers (R126); the low nibble is ignored (decision D5, log 11). -/
def kernelSkipEqualRegisters (x y _n : Nibble) (s : State) : KernelResult :=
  .ok s (if s.reg x = s.reg y then .skipNext else .advance)

/-- skip-equal-registers as the Engine runs it: the kernel rule, then the end of the step (R196). -/
def execSkipEqualRegisters (x y n : Nibble) (s : State) : Host.Outcome State Fault Refusal :=
  finish (.skipEqualRegisters x y n) s (kernelSkipEqualRegisters x y n s)

/-- skip-not-equal-registers (R127); the low nibble is ignored (decision D5, log 11). -/
def kernelSkipNotEqualRegisters (x y _n : Nibble) (s : State) : KernelResult :=
  .ok s (if s.reg x ≠ s.reg y then .skipNext else .advance)

/-- skip-not-equal-registers as the Engine runs it: the kernel rule, then the end of the step (R196). -/
def execSkipNotEqualRegisters (x y n : Nibble) (s : State) : Host.Outcome State Fault Refusal :=
  finish (.skipNotEqualRegisters x y n) s (kernelSkipNotEqualRegisters x y n s)

/-- jump-with-offset (R128): to `V[0] + nnn`, not masked to 12 bits. -/
def kernelJumpWithOffset (nnn : Addr) (s : State) : KernelResult :=
  .ok s (.jump (zextByte (s.reg baseReg) + zextAddr nnn))

/-- jump-with-offset as the Engine runs it: the kernel rule, then the end of the step (R196). -/
def execJumpWithOffset (nnn : Addr) (s : State) : Host.Outcome State Fault Refusal :=
  finish (.jumpWithOffset nnn) s (kernelJumpWithOffset nnn s)

end Sys2Proof.Machine
end

