-- ==== Sys2Proof/Machine/Display.lean ====
section
/-! DEFINITION. The display (44_display.md): clear-screen and draw-sprite. -/

namespace Sys2Proof.Machine

/-- clear-screen (R170). -/
def kernelClearScreen (s : State) : KernelResult :=
  .ok (s.setDisp Display.clear) .advance

/-- clear-screen as the Engine runs it: the kernel rule, then the end of the step (R196). -/
def execClearScreen (s : State) : Host.Outcome State Fault Refusal :=
  finish .clearScreen s (kernelClearScreen s)

/-- One pixel of a draw (R171): the pixel becomes old XOR sprite, and a set pixel that becomes unset is remembered. The
pair is the display so far and the collision so far. -/
def drawPixel (r c : Nat) (sprite : Bool) (acc : Display × Bool) : Display × Bool :=
  let old := acc.1.pixel r c
  let new := old ^^ sprite
  (acc.1.setPixel r c new, acc.2 || (old && !new))

/-- One sprite row (R171): eight columns from `x0`, most significant bit first, on display row `r`. -/
def drawRow (r x0 : Nat) (b : Byte) (acc : Display × Bool) : Display × Bool :=
  (List.range 8).foldl (fun acc bit => drawPixel r (x0 + bit) (spriteBit b bit) acc) acc

/-- The whole draw (R171): `n` rows from display row `y0`, row bytes from address `base`. Indices are wrapped where
the display is touched (R33), so nothing is clipped. -/
def drawRows (m : Memory) (base x0 y0 n : Nat) (d : Display) : Display × Bool :=
  (List.range n).foldl (fun acc row => drawRow (y0 + row) x0 (Memory.read m (base + row)) acc) (d, false)

/-- draw-sprite (R171): `V[x]` is the column, `V[y]` the row, both read before `VF` is written (R104). The flag is
written once, after all pixels, also when `n = 0` (decision D25, log 22). -/
def kernelDrawSprite (x y n : Nibble) (s : State) : KernelResult :=
  if accessFaults (dataBase s) n.toNat then .fault .memoryFault
  else
    let drawn := drawRows s.mem (dataBase s) (s.reg x).toNat (s.reg y).toNat n.toNat s.disp
    .ok ((s.setDisp drawn.1).setFlag (flagByte drawn.2)) .advance

/-- draw-sprite as the Engine runs it: the kernel rule, then the end of the step (R196). -/
def execDrawSprite (x y n : Nibble) (s : State) : Host.Outcome State Fault Refusal :=
  finish (.drawSprite x y n) s (kernelDrawSprite x y n s)

end Sys2Proof.Machine
end

