-- ==== Sys2Proof/Machine/Environment.lean ====
section
/-! DEFINITION. Random, keys and timers (45_random_keys_timers.md). No rule here faults, and none writes `VF` as a side
effect. The environment's answers are free values (R10; log 1, log 2). -/

namespace Sys2Proof.Machine

/-- random-and-mask (R180): the random byte AND `kk`. -/
def kernelRandomAndMask (x : Nibble) (kk : Byte) (s : State) : KernelResult :=
  .ok ((s.setReg x (randomByte s &&& kk)).nextDraw) .advance

/-- random-and-mask as the Engine runs it: the kernel rule, then the end of the step (R196). -/
def execRandomAndMask (x : Nibble) (kk : Byte) (s : State) : Host.Outcome State Fault Refusal :=
  finish (.randomAndMask x kk) s (kernelRandomAndMask x kk s)

/-- skip-if-key-pressed (R181). -/
def kernelSkipIfKeyPressed (x : Nibble) (s : State) : KernelResult :=
  .ok s.nextDraw (if keyDown s (s.reg x) then .skipNext else .advance)

/-- skip-if-key-pressed as the Engine runs it: the kernel rule, then the end of the step (R196). -/
def execSkipIfKeyPressed (x : Nibble) (s : State) : Host.Outcome State Fault Refusal :=
  finish (.skipIfKeyPressed x) s (kernelSkipIfKeyPressed x s)

/-- skip-if-key-not-pressed (R182). -/
def kernelSkipIfKeyNotPressed (x : Nibble) (s : State) : KernelResult :=
  .ok s.nextDraw (if keyDown s (s.reg x) then .advance else .skipNext)

/-- skip-if-key-not-pressed as the Engine runs it: the kernel rule, then the end of the step (R196). -/
def execSkipIfKeyNotPressed (x : Nibble) (s : State) : Host.Outcome State Fault Refusal :=
  finish (.skipIfKeyNotPressed x) s (kernelSkipIfKeyNotPressed x s)

/-- load-from-key-blocking (R183): always a wait; `supplyKey` in HostCalls.lean resolves it (decision D18, log 18). -/
def kernelLoadFromKeyBlocking (x : Nibble) (_s : State) : KernelResult :=
  .awaitKey x

/-- load-from-key-blocking as the Engine runs it: the kernel rule, then the end of the step (R196). -/
def execLoadFromKeyBlocking (x : Nibble) (s : State) : Host.Outcome State Fault Refusal :=
  finish (.loadFromKeyBlocking x) s (kernelLoadFromKeyBlocking x s)

/-- load-from-delay-timer (R184). -/
def kernelLoadFromDelayTimer (x : Nibble) (s : State) : KernelResult :=
  .ok (s.setReg x s.dt) .advance

/-- load-from-delay-timer as the Engine runs it: the kernel rule, then the end of the step (R196). -/
def execLoadFromDelayTimer (x : Nibble) (s : State) : Host.Outcome State Fault Refusal :=
  finish (.loadFromDelayTimer x) s (kernelLoadFromDelayTimer x s)

/-- load-to-delay-timer (R185). -/
def kernelLoadToDelayTimer (x : Nibble) (s : State) : KernelResult :=
  .ok (s.setDt (s.reg x)) .advance

/-- load-to-delay-timer as the Engine runs it: the kernel rule, then the end of the step (R196). -/
def execLoadToDelayTimer (x : Nibble) (s : State) : Host.Outcome State Fault Refusal :=
  finish (.loadToDelayTimer x) s (kernelLoadToDelayTimer x s)

/-- load-to-sound-timer (R186). -/
def kernelLoadToSoundTimer (x : Nibble) (s : State) : KernelResult :=
  .ok (s.setSt (s.reg x)) .advance

/-- load-to-sound-timer as the Engine runs it: the kernel rule, then the end of the step (R196). -/
def execLoadToSoundTimer (x : Nibble) (s : State) : Host.Outcome State Fault Refusal :=
  finish (.loadToSoundTimer x) s (kernelLoadToSoundTimer x s)

end Sys2Proof.Machine
end

