-- ==== Sys2Proof/Machine/IndexMemory.lean ====
section
/-! DEFINITION. Index register and memory (43_index_memory.md). The bound is checked before anything is written (R56, R105),
and no rule changes `I` as a side effect (R28). -/

namespace Sys2Proof.Machine

/-- load-index-immediate (R160). -/
def kernelLoadIndexImmediate (nnn : Addr) (s : State) : KernelResult :=
  .ok (s.setI (zextAddr nnn)) .advance

/-- load-index-immediate as the Engine runs it: the kernel rule, then the end of the step (R196). -/
def execLoadIndexImmediate (nnn : Addr) (s : State) : Host.Outcome State Fault Refusal :=
  finish (.loadIndexImmediate nnn) s (kernelLoadIndexImmediate nnn s)

/-- add-to-index (R161): modulo 65536, no flag (decision D13, log 15). -/
def kernelAddToIndex (x : Nibble) (s : State) : KernelResult :=
  .ok (s.setI (s.i + zextByte (s.reg x))) .advance

/-- add-to-index as the Engine runs it: the kernel rule, then the end of the step (R196). -/
def execAddToIndex (x : Nibble) (s : State) : Host.Outcome State Fault Refusal :=
  finish (.addToIndex x) s (kernelAddToIndex x s)

/-- load-font-address (R162): the whole byte times 5, plus the base, which is 0 (decision D14, log 13). -/
def kernelLoadFontAddress (x : Nibble) (s : State) : KernelResult :=
  .ok (s.setI (fontAddrBase + zextByte (s.reg x) * glyphBytes)) .advance

/-- load-font-address as the Engine runs it: the kernel rule, then the end of the step (R196). -/
def execLoadFontAddress (x : Nibble) (s : State) : Host.Outcome State Fault Refusal :=
  finish (.loadFontAddress x) s (kernelLoadFontAddress x s)

/-- store-bcd (R163): hundreds, tens, units at `I`, `I+1`, `I+2`. -/
def kernelStoreBcd (x : Nibble) (s : State) : KernelResult :=
  if accessFaults (dataBase s) 3 then .fault .memoryFault
  else .ok (s.storeBytes (dataBase s) (bcdDigits (s.reg x))) .advance

/-- store-bcd as the Engine runs it: the kernel rule, then the end of the step (R196). -/
def execStoreBcd (x : Nibble) (s : State) : Host.Outcome State Fault Refusal :=
  finish (.storeBcd x) s (kernelStoreBcd x s)

/-- store-registers-to-memory (R164): `V[0..x]` at `I` on. -/
def kernelStoreRegistersToMemory (x : Nibble) (s : State) : KernelResult :=
  if accessFaults (dataBase s) (blockLength x) then .fault .memoryFault
  else .ok (s.storeBytes (dataBase s) (regBlock s x)) .advance

/-- store-registers-to-memory as the Engine runs it: the kernel rule, then the end of the step (R196). -/
def execStoreRegistersToMemory (x : Nibble) (s : State) : Host.Outcome State Fault Refusal :=
  finish (.storeRegistersToMemory x) s (kernelStoreRegistersToMemory x s)

/-- load-registers-from-memory (R165): `V[0..x]` from `I` on; a read faults like a write (decision D8, log 12). -/
def kernelLoadRegistersFromMemory (x : Nibble) (s : State) : KernelResult :=
  if accessFaults (dataBase s) (blockLength x) then .fault .memoryFault
  else .ok (s.loadBlock x) .advance

/-- load-registers-from-memory as the Engine runs it: the kernel rule, then the end of the step (R196). -/
def execLoadRegistersFromMemory (x : Nibble) (s : State) : Host.Outcome State Fault Refusal :=
  finish (.loadRegistersFromMemory x) s (kernelLoadRegistersFromMemory x s)

end Sys2Proof.Machine
end

