-- ==== Sys2Proof/Machine/LoadAlu.lean ====
section
/-! DEFINITION. Register loads and arithmetic (42_load_alu.md). Every rule advances and raises no fault. -/

namespace Sys2Proof.Machine

/-- load-immediate (R140). -/
def kernelLoadImmediate (x : Nibble) (kk : Byte) (s : State) : KernelResult :=
  .ok (s.setReg x kk) .advance

/-- load-immediate as the Engine runs it: the kernel rule, then the end of the step (R196). -/
def execLoadImmediate (x : Nibble) (kk : Byte) (s : State) : Host.Outcome State Fault Refusal :=
  finish (.loadImmediate x kk) s (kernelLoadImmediate x kk s)

/-- add-immediate (R141): modulo 256, no flag. -/
def kernelAddImmediate (x : Nibble) (kk : Byte) (s : State) : KernelResult :=
  .ok (s.setReg x (s.reg x + kk)) .advance

/-- add-immediate as the Engine runs it: the kernel rule, then the end of the step (R196). -/
def execAddImmediate (x : Nibble) (kk : Byte) (s : State) : Host.Outcome State Fault Refusal :=
  finish (.addImmediate x kk) s (kernelAddImmediate x kk s)

/-- load-register (R142). -/
def kernelLoadRegister (x y : Nibble) (s : State) : KernelResult :=
  .ok (s.setReg x (s.reg y)) .advance

/-- load-register as the Engine runs it: the kernel rule, then the end of the step (R196). -/
def execLoadRegister (x y : Nibble) (s : State) : Host.Outcome State Fault Refusal :=
  finish (.loadRegister x y) s (kernelLoadRegister x y s)

/-- or (R143): no flag. -/
def kernelOrRegisters (x y : Nibble) (s : State) : KernelResult :=
  .ok (s.setReg x (s.reg x ||| s.reg y)) .advance

/-- or as the Engine runs it: the kernel rule, then the end of the step (R196). -/
def execOrRegisters (x y : Nibble) (s : State) : Host.Outcome State Fault Refusal :=
  finish (.orRegisters x y) s (kernelOrRegisters x y s)

/-- and (R144): no flag. -/
def kernelAndRegisters (x y : Nibble) (s : State) : KernelResult :=
  .ok (s.setReg x (s.reg x &&& s.reg y)) .advance

/-- and as the Engine runs it: the kernel rule, then the end of the step (R196). -/
def execAndRegisters (x y : Nibble) (s : State) : Host.Outcome State Fault Refusal :=
  finish (.andRegisters x y) s (kernelAndRegisters x y s)

/-- xor (R145): no flag. -/
def kernelXorRegisters (x y : Nibble) (s : State) : KernelResult :=
  .ok (s.setReg x (s.reg x ^^^ s.reg y)) .advance

/-- xor as the Engine runs it: the kernel rule, then the end of the step (R196). -/
def execXorRegisters (x y : Nibble) (s : State) : Host.Outcome State Fault Refusal :=
  finish (.xorRegisters x y) s (kernelXorRegisters x y s)

/-- add-registers (R146): the sum modulo 256, and the carry. -/
def kernelAddRegisters (x y : Nibble) (s : State) : KernelResult :=
  .ok (s.setRegAndFlag x (s.reg x + s.reg y) (carryFlag (s.reg x) (s.reg y))) .advance

/-- add-registers as the Engine runs it: the kernel rule, then the end of the step (R196). -/
def execAddRegisters (x y : Nibble) (s : State) : Host.Outcome State Fault Refusal :=
  finish (.addRegisters x y) s (kernelAddRegisters x y s)

/-- sub-registers (R147): `V[x] - V[y]` modulo 256, and not-borrow. -/
def kernelSubRegisters (x y : Nibble) (s : State) : KernelResult :=
  .ok (s.setRegAndFlag x (s.reg x - s.reg y) (notBorrowFlag (s.reg x) (s.reg y))) .advance

/-- sub-registers as the Engine runs it: the kernel rule, then the end of the step (R196). -/
def execSubRegisters (x y : Nibble) (s : State) : Host.Outcome State Fault Refusal :=
  finish (.subRegisters x y) s (kernelSubRegisters x y s)

/-- sub-reverse (R148): `V[y] - V[x]` modulo 256 into `V[x]`, and not-borrow. -/
def kernelSubReverse (x y : Nibble) (s : State) : KernelResult :=
  .ok (s.setRegAndFlag x (s.reg y - s.reg x) (notBorrowFlag (s.reg y) (s.reg x))) .advance

/-- sub-reverse as the Engine runs it: the kernel rule, then the end of the step (R196). -/
def execSubReverse (x y : Nibble) (s : State) : Host.Outcome State Fault Refusal :=
  finish (.subReverse x y) s (kernelSubReverse x y s)

/-- shift-right (R149): `V[x]` in place, `y` ignored (R150), and the bit shifted out. -/
def kernelShiftRight (x _y : Nibble) (s : State) : KernelResult :=
  .ok (s.setRegAndFlag x (s.reg x >>> 1) (bit0Flag (s.reg x))) .advance

/-- shift-right as the Engine runs it: the kernel rule, then the end of the step (R196). -/
def execShiftRight (x y : Nibble) (s : State) : Host.Outcome State Fault Refusal :=
  finish (.shiftRight x y) s (kernelShiftRight x y s)

/-- shift-left (R151): `V[x]` in place, `y` ignored (R150), and the bit shifted out. -/
def kernelShiftLeft (x _y : Nibble) (s : State) : KernelResult :=
  .ok (s.setRegAndFlag x (s.reg x <<< 1) (bit7Flag (s.reg x))) .advance

/-- shift-left as the Engine runs it: the kernel rule, then the end of the step (R196). -/
def execShiftLeft (x y : Nibble) (s : State) : Host.Outcome State Fault Refusal :=
  finish (.shiftLeft x y) s (kernelShiftLeft x y s)

end Sys2Proof.Machine
end

