-- ==== Sys2Proof/Machine/Dispatch.lean ====
section
/-! DEFINITION. The Dispatcher: one arm per category, no default arm (40_dispatch_kernel.md R103). -/

namespace Sys2Proof.Machine

def exec (i : Instr) (s : State) : Host.Outcome State Fault Refusal :=
  match i with
  | .clearScreen => Sys2Proof.Machine.execClearScreen s
  | .ret => Sys2Proof.Machine.execRet s
  | .jump nnn => Sys2Proof.Machine.execJump nnn s
  | .call nnn => Sys2Proof.Machine.execCall nnn s
  | .skipEqualImmediate x kk => Sys2Proof.Machine.execSkipEqualImmediate x kk s
  | .skipNotEqualImmediate x kk => Sys2Proof.Machine.execSkipNotEqualImmediate x kk s
  | .skipEqualRegisters x y n => Sys2Proof.Machine.execSkipEqualRegisters x y n s
  | .loadImmediate x kk => Sys2Proof.Machine.execLoadImmediate x kk s
  | .addImmediate x kk => Sys2Proof.Machine.execAddImmediate x kk s
  | .loadRegister x y => Sys2Proof.Machine.execLoadRegister x y s
  | .orRegisters x y => Sys2Proof.Machine.execOrRegisters x y s
  | .andRegisters x y => Sys2Proof.Machine.execAndRegisters x y s
  | .xorRegisters x y => Sys2Proof.Machine.execXorRegisters x y s
  | .addRegisters x y => Sys2Proof.Machine.execAddRegisters x y s
  | .subRegisters x y => Sys2Proof.Machine.execSubRegisters x y s
  | .shiftRight x y => Sys2Proof.Machine.execShiftRight x y s
  | .subReverse x y => Sys2Proof.Machine.execSubReverse x y s
  | .shiftLeft x y => Sys2Proof.Machine.execShiftLeft x y s
  | .skipNotEqualRegisters x y n => Sys2Proof.Machine.execSkipNotEqualRegisters x y n s
  | .loadIndexImmediate nnn => Sys2Proof.Machine.execLoadIndexImmediate nnn s
  | .jumpWithOffset nnn => Sys2Proof.Machine.execJumpWithOffset nnn s
  | .randomAndMask x kk => Sys2Proof.Machine.execRandomAndMask x kk s
  | .drawSprite x y n => Sys2Proof.Machine.execDrawSprite x y n s
  | .skipIfKeyPressed x => Sys2Proof.Machine.execSkipIfKeyPressed x s
  | .skipIfKeyNotPressed x => Sys2Proof.Machine.execSkipIfKeyNotPressed x s
  | .loadFromDelayTimer x => Sys2Proof.Machine.execLoadFromDelayTimer x s
  | .loadFromKeyBlocking x => Sys2Proof.Machine.execLoadFromKeyBlocking x s
  | .loadToDelayTimer x => Sys2Proof.Machine.execLoadToDelayTimer x s
  | .loadToSoundTimer x => Sys2Proof.Machine.execLoadToSoundTimer x s
  | .addToIndex x => Sys2Proof.Machine.execAddToIndex x s
  | .loadFontAddress x => Sys2Proof.Machine.execLoadFontAddress x s
  | .storeBcd x => Sys2Proof.Machine.execStoreBcd x s
  | .storeRegistersToMemory x => Sys2Proof.Machine.execStoreRegistersToMemory x s
  | .loadRegistersFromMemory x => Sys2Proof.Machine.execLoadRegistersFromMemory x s
  | .sys nnn => Sys2Proof.Machine.execSys nnn s

end Sys2Proof.Machine
end

