-- ==== Sys2Proof/Machine/Kernel.lean ====
section
/-! DEFINITION. The kernel block as one combinational function (40_dispatch_kernel.md R100 to R103): an exhaustive match
that gives each category its rule. `exec` is this function followed by the end of the step (`exec_eq_finish_kernel` in
Laws/Step.lean). The kernel never touches `pc`, `RUN`, `KEYDST` or `FAULTREC`: those are the Engine's. -/

namespace Sys2Proof.Machine

/-- The kernel (R100). -/
def kernel (i : Instr) (s : State) : KernelResult :=
  match i with
  | .clearScreen => kernelClearScreen s
  | .ret => kernelRet s
  | .jump nnn => kernelJump nnn s
  | .call nnn => kernelCall nnn s
  | .skipEqualImmediate x kk => kernelSkipEqualImmediate x kk s
  | .skipNotEqualImmediate x kk => kernelSkipNotEqualImmediate x kk s
  | .skipEqualRegisters x y n => kernelSkipEqualRegisters x y n s
  | .loadImmediate x kk => kernelLoadImmediate x kk s
  | .addImmediate x kk => kernelAddImmediate x kk s
  | .loadRegister x y => kernelLoadRegister x y s
  | .orRegisters x y => kernelOrRegisters x y s
  | .andRegisters x y => kernelAndRegisters x y s
  | .xorRegisters x y => kernelXorRegisters x y s
  | .addRegisters x y => kernelAddRegisters x y s
  | .subRegisters x y => kernelSubRegisters x y s
  | .shiftRight x y => kernelShiftRight x y s
  | .subReverse x y => kernelSubReverse x y s
  | .shiftLeft x y => kernelShiftLeft x y s
  | .skipNotEqualRegisters x y n => kernelSkipNotEqualRegisters x y n s
  | .loadIndexImmediate nnn => kernelLoadIndexImmediate nnn s
  | .jumpWithOffset nnn => kernelJumpWithOffset nnn s
  | .randomAndMask x kk => kernelRandomAndMask x kk s
  | .drawSprite x y n => kernelDrawSprite x y n s
  | .skipIfKeyPressed x => kernelSkipIfKeyPressed x s
  | .skipIfKeyNotPressed x => kernelSkipIfKeyNotPressed x s
  | .loadFromDelayTimer x => kernelLoadFromDelayTimer x s
  | .loadFromKeyBlocking x => kernelLoadFromKeyBlocking x s
  | .loadToDelayTimer x => kernelLoadToDelayTimer x s
  | .loadToSoundTimer x => kernelLoadToSoundTimer x s
  | .addToIndex x => kernelAddToIndex x s
  | .loadFontAddress x => kernelLoadFontAddress x s
  | .storeBcd x => kernelStoreBcd x s
  | .storeRegistersToMemory x => kernelStoreRegistersToMemory x s
  | .loadRegistersFromMemory x => kernelLoadRegistersFromMemory x s
  | .sys nnn => kernelSys nnn s

end Sys2Proof.Machine
end

