-- ==== Sys2Proof/Machine/Engine.lean ====
section
/-! DEFINITION. The Engine's step (60_exceptions.md R196, R203). -/

namespace Sys2Proof.Machine

/-- A step in `RUN = Fetching` (R196): fetch, decode, then the kernel and the end of the step, the checks in that order
(R195). A fetch fault records no opcode, a decode fault records the word. -/
def fetchAndRun (s : State) : Host.Outcome State Fault Refusal :=
  match fetch s with
  | none => .next (s.halt .memoryFault none)
  | some w =>
    match decodeWord w with
    | .error _ => .next (s.halt .decodeFault (some w))
    | .ok i => exec i (s.setRun .executing)

/-- One `step()` of the Engine. In a halted state it changes nothing (R203; decision D22, log 19). `Executing` never
stands between two steps (R36, R197; log 4). -/
def engineStep (s : State) : Host.Outcome State Fault Refusal :=
  match s.run with
  | .fetching => fetchAndRun s
  | .haltedOnKey => .next s
  | .haltedOnFault => .next s
  | .executing => .fault .stepWhileExecuting

end Sys2Proof.Machine
end

