-- ==== Sys2Proof/Machine/Step.lean ====
section
/-! DEFINITION. The machine's step, the Engine's `step()` (60_exceptions.md R196), and placing an instruction where it
fetches. The host's other calls are in Machine/HostCalls.lean. -/

namespace Sys2Proof.Machine

/-- One `step()`. -/
def step (s : State) : Host.Outcome State Fault Refusal := engineStep s

/-- `s` with the instruction whose bits are `w` (numbered as spec/opcode_table.json numbers them) stored at `pc` and
`pc + 1`, high byte first, and the Engine fetching, so that the very next step runs it. It stands for the host's program
load (R228; log 6). Where `pc = 0xFFFF` no word fits and none is stored. -/
def State.withFetchWord (s : State) (nbits w : Nat) : State :=
  placeWord (s.setRun .fetching) (BitVec.ofNat 16 (w % 2 ^ nbits))

end Sys2Proof.Machine
end

