-- ==== Sys2Proof/Machine/HostCalls.lean ====
section
/-! DEFINITION. The host's interface (60_exceptions.md R205 to R209, 70_reset_and_hazards.md R220, R228): every call a
host may make between two steps, and a run as a schedule of calls (log 5). `disassemble` is out of scope (R3). -/

namespace Sys2Proof.Machine

/-- The result a `step()` returns (R205): `Continue`, `AwaitingKey`, or `Fault(kind)`. -/
inductive StepResult where
  | continue_
  | awaitingKey
  /-- the kind recorded in `FAULTREC`; none only where a halted state has no record, which no run reaches -/
  | fault (kind : Option FaultKind)
  deriving DecidableEq, Repr

/-- The result of a step, read off the state it leaves (R196, R197, R203; log 29). -/
def stepResult (after : State) : StepResult :=
  match after.run with
  | .haltedOnKey => .awaitingKey
  | .haltedOnFault => .fault (after.faultRec.map FaultRec.kind)
  | .fetching => .continue_
  | .executing => .continue_

/-- The numeric cause code: 0 none, 1 DecodeFault, 2 MemoryFault, 3 StackFault (R194; decision D26). -/
def faultCode : Option FaultKind → Nat
  | none => 0
  | some .decodeFault => 1
  | some .memoryFault => 2
  | some .stackFault => 3

/-- One timer counted down, saturating at 0 (R206). -/
def countDown (t : Byte) : Byte := if t = 0x00#8 then 0x00#8 else t - 1

/-- `tickTimers()` (R206): both timers, independently, in every engine state (decisions D22, D32, log 19). -/
def State.tickTimers (s : State) : State := (s.setDt (countDown s.dt)).setSt (countDown s.st)

/-- `supplyKey(value)`: resolves a key wait (R208), and is ignored in any other engine state (R209); the value is
reduced modulo 256 (decisions D18, D22, log 18, log 19). -/
def State.supplyKey (s : State) (value : Nat) : State :=
  match s.run with
  | .haltedOnKey =>
    ((s.setReg s.keyDst (BitVec.ofNat 8 value)).setPc (pcPolicy .advance s.pc)).setRun .fetching
  | .fetching => s
  | .haltedOnFault => s
  | .executing => s

/-- The program load (R228): the bytes from 0x200 on, in order; one that does not fit is refused (R51; decision D30,
log 27). -/
def State.loadProgram (s : State) (bytes : List Byte) : Host.Outcome State Fault Refusal :=
  if maxProgramBytes < bytes.length then .refused .programTooLong
  else .next (s.storeBytes progBase.toNat bytes)

/-- `displaySnapshot()` (R32, R205): a copy of the display, read-only. -/
def State.displaySnapshot (s : State) : Display := s.disp

/-- A call of the host's interface (R205). -/
inductive HostCall where
  | reset
  | loadProgram (bytes : List Byte)
  | step
  | tickTimers
  | supplyKey (value : Nat)
  | displaySnapshot
  deriving DecidableEq, Repr

/-- What a call does to the state (R205). -/
def hostCall (c : HostCall) (s : State) : Host.Outcome State Fault Refusal :=
  match c with
  | .reset => .next s.hostReset
  | .loadProgram bytes => s.loadProgram bytes
  | .step => step s
  | .tickTimers => .next s.tickTimers
  | .supplyKey value => .next (s.supplyKey value)
  | .displaySnapshot => .next s

/-- A run: the host's calls one after another, in any order and number (R59, R206; log 5). -/
def runCalls : List HostCall → State → Host.Outcome State Fault Refusal
  | [], s => .next s
  | c :: cs, s =>
    match hostCall c s with
    | .next s' => runCalls cs s'
    | .fault r => .fault r
    | .refused r => .refused r

end Sys2Proof.Machine
end

