-- ==== Sys2Proof/Safety.lean ====
section
/-! DEFINITION. What the claims speak of: the machine's invariant, launch states, the halted states, and the end of a
run by a jump to itself. -/

namespace Sys2Proof.Machine

/-- The state's own consistency: memory is in its canonical form, no step is under way (R36, R197), and there is a
fault record exactly while the engine is halted on a fault (R36, R200, R220). -/
abbrev State.Inv (s : State) : Prop :=
  Memory.wf s.mem = true ∧ s.run ≠ .executing ∧ (s.faultRec.isSome = true ↔ s.run = .haltedOnFault)

/-- A launch state in the wide sense of R41: the values the source itself states for reset and nothing else fixed; the
font is at the source's address with the bytes of decision D24 (log 8). -/
abbrev State.Launch (s : State) : Prop :=
  (∀ r : Nibble, s.reg r = 0x00#8) ∧ s.pc = 0x0200#16 ∧ s.sp.val = 0 ∧ s.run = .fetching ∧
    (∀ k : Fin 80, s.readByte (fontLoad + k.val) = fontTable.getD k.val 0x00#8)

/-- The engine is halted on a fault: a distinct outcome, never a good end (R201). -/
abbrev State.Faulted (s : State) : Prop := s.run = .haltedOnFault

/-- The engine waits for a key (R204). -/
abbrev State.Waiting (s : State) : Prop := s.run = .haltedOnKey

/-- The end of a run. DESIGN CHOICE, safe (log 31): R232 leaves the definition to the model and gives the jump to itself
(R122) only as an instance; the model takes it, with the engine fetching. A run may instead stay halted on a fault
(`State.Faulted`) or wait for a key (`State.Waiting`); neither counts as an end. No meaning and no statement uses it. -/
abbrev State.Spinning (s : State) : Prop :=
  s.run = .fetching ∧ ∃ nnn : Addr, s.pc = zextAddr nnn ∧ fetch s = some (encode (.jump nnn))

end Sys2Proof.Machine
end

