-- ==== Sys2Proof/Certificates/Slice0/Obligations.lean ====
section
/-! DEFINITION. The statements for the provers, made from the numbered rules of spec/.

How to read them. A result statement has as its conclusion that `exec i s` answers the next state the rules give, for
every state and operand that meets the hypotheses, so it is the instruction's completion statement too. Its frame is the
equation `t = { s with ... }`: whatever field is not named there is unchanged. `State.setRun`, `readByte` and `reg` are
the model's reads and updates; `Config.rnd` and `Config.keyDown` are free values, so what is said of them holds whatever
they are. "The opcode value" of an instruction is the standard table's wherever R85 marks it G (decision D3, log 9);
the tag numbers are decision D2. -/

namespace Sys2Proof.Claims

open Sys2Proof Sys2Proof.Machine

/-- The word is the instruction's, both ways, and the category tag is `tag` (R85). -/
abbrev Encodes (w : Word) (tag : Nat) (i : Instr) : Prop :=
  decodeWord w = .ok i ∧ encode i = w ∧ categoryTag i = tag

/-- The fault table of R112: which kind, if any, an instruction raises in a state. Decisions D7, D8, D11. -/
def faultOf (i : Instr) (s : State) : Option FaultKind :=
  match i with
  | .call _ => if s.sp.val = 16 then some .stackFault else none
  | .ret => if s.sp.val = 0 then some .stackFault else none
  | .storeBcd _ => if s.i.toNat + 2 > 0xFFFF then some .memoryFault else none
  | .storeRegistersToMemory x => if s.i.toNat + x.toNat > 0xFFFF then some .memoryFault else none
  | .loadRegistersFromMemory x => if s.i.toNat + x.toNat > 0xFFFF then some .memoryFault else none
  | .drawSprite _ _ n => if n.toNat ≥ 1 ∧ s.i.toNat + n.toNat - 1 > 0xFFFF then some .memoryFault else none
  | _ => none

/-- The action table of R102: which program-counter actions a category may return. -/
def ActionAllowed (i : Instr) (a : PcAction) : Prop :=
  match i with
  | .jump _ | .call _ | .jumpWithOffset _ | .ret => ∃ target, a = .jump target
  | .skipEqualImmediate _ _ | .skipNotEqualImmediate _ _ | .skipEqualRegisters _ _ _ | .skipNotEqualRegisters _ _ _
  | .skipIfKeyPressed _ | .skipIfKeyNotPressed _ => a = .skipNext ∨ a = .advance
  | .loadFromKeyBlocking _ => False
  | _ => a = .advance

/-- The writes of the register access table of R21: `Vx`, the block `V[0..x]`, and the implicit flag. -/
def WritesRegister (i : Instr) (r : Nibble) : Prop :=
  match i with
  | .loadImmediate x _ | .addImmediate x _ | .randomAndMask x _ => r = x
  | .loadRegister x _ | .orRegisters x _ | .andRegisters x _ | .xorRegisters x _ => r = x
  | .loadFromDelayTimer x => r = x
  | .addRegisters x _ | .subRegisters x _ | .subReverse x _ | .shiftRight x _ | .shiftLeft x _ => r = x ∨ r = 0xF#4
  | .drawSprite _ _ _ => r = 0xF#4
  | .loadRegistersFromMemory x => r.toNat ≤ x.toNat
  | _ => False

/-- Execute calls to these addresses, one after another. -/
def callAll : List Addr → State → Host.Outcome State Fault Refusal
  | [], s => .next s
  | a :: as, s =>
    match exec (.call a) s with
    | .next t => callAll as t
    | .fault r => .fault r
    | .refused r => .refused r

/-- Execute return this often. -/
def returnTimes : Nat → State → Host.Outcome State Fault Refusal
  | 0, s => .next s
  | k + 1, s =>
    match exec .ret s with
    | .next t => returnTimes k t
    | .fault r => .fault r
    | .refused r => .refused r

/-- The addresses the calls of `callAll` stand at, when the first is at `pc`: each call runs at the target of the one
before it. -/
def callSites : List Addr → Word → List Word
  | [], _ => []
  | a :: as, pc => pc :: callSites as (a.setWidth 16)

/-- The sprite pixel that falls on display row `r`, column `c`, of an `n`-row sprite at `base` drawn with its corner at
row `y0`, column `x0`, both wrapped (R171): false where the sprite does not reach. -/
def spriteOn (m : Memory) (base x0 y0 n r c : Nat) : Bool :=
  let row := (r + 32 - y0 % 32) % 32
  let col := (c + 64 - x0 % 64) % 64
  decide (row < n) && decide (col < 8) && (Memory.read m (base + row)).getLsbD (7 - col)

/-- The 80 bytes of the font table, glyphs 0 to F, copied out from the table of R222 (decision D24, log 8). -/
def glyphBytesOfR222 : List Byte :=
  -- 0 to 3
  [0xF0#8, 0x90#8, 0x90#8, 0x90#8, 0xF0#8, 0x20#8, 0x60#8, 0x20#8, 0x20#8, 0x70#8] ++
  [0xF0#8, 0x10#8, 0xF0#8, 0x80#8, 0xF0#8, 0xF0#8, 0x10#8, 0xF0#8, 0x10#8, 0xF0#8] ++
  -- 4 to 7
  [0x90#8, 0x90#8, 0xF0#8, 0x10#8, 0x10#8, 0xF0#8, 0x80#8, 0xF0#8, 0x10#8, 0xF0#8] ++
  [0xF0#8, 0x80#8, 0xF0#8, 0x90#8, 0xF0#8, 0xF0#8, 0x10#8, 0x20#8, 0x40#8, 0x40#8] ++
  -- 8 to B
  [0xF0#8, 0x90#8, 0xF0#8, 0x90#8, 0xF0#8, 0xF0#8, 0x90#8, 0xF0#8, 0x10#8, 0xF0#8] ++
  [0xF0#8, 0x90#8, 0xF0#8, 0x90#8, 0x90#8, 0xE0#8, 0x90#8, 0xE0#8, 0x90#8, 0xE0#8] ++
  -- C to F
  [0xF0#8, 0x80#8, 0x80#8, 0x80#8, 0xF0#8, 0xE0#8, 0x90#8, 0x90#8, 0x90#8, 0xE0#8] ++
  [0xF0#8, 0x80#8, 0xF0#8, 0x80#8, 0xF0#8, 0xF0#8, 0x80#8, 0xF0#8, 0x80#8, 0x80#8]

end Sys2Proof.Claims

section

open Sys2Proof Sys2Proof.Machine Sys2Proof.Claims

/-! ### The Decoder -/

/-- Decoding what the encoder writes gives the instruction back, with every operand at every value its field admits
(R71, R72, R85; the opcode values are decision D3, log 9; the ignored fields are kept, log 28). -/
def Obligations.DecodeOfEncodeIsTheInstruction : Prop :=
  ∀ i : Instr, i.wellFormed = true → decodeWord (encode i) = .ok i ∧ decodeBytes (encodeBytes i) = .ok (i, [])

/-- The other direction: an instruction the Decoder gives is well formed and its word, the raw opcode of R75, is the
word decoded, so no two words share an instruction (R71, R75; log 28). -/
def Obligations.EncodeOfDecodeIsTheWord : Prop :=
  ∀ (w : Word) (i : Instr), decodeWord w = .ok i → encode i = w ∧ i.wellFormed = true

/-- A word belongs to a row of the map when `w AND mask = match`; clear-screen and return take precedence over sys, and
no other rows overlap (R85; decision D3, log 9, and D4, log 10). -/
def Obligations.WordsBelongToTheRowTheyMatch : Prop :=
  ∀ w : Word,
    (∀ i, decodeWord w = .ok i → w &&& rowMask (categoryTag i) = rowMatch (categoryTag i)) ∧
    (∀ tag, tag < 34 → w &&& rowMask tag = rowMatch tag → ∃ i, decodeWord w = .ok i ∧ categoryTag i = tag) ∧
    (w &&& rowMask 34 = rowMatch 34 → w ≠ 0x00E0#16 → w ≠ 0x00EE#16 →
      ∃ i, decodeWord w = .ok i ∧ categoryTag i = 34)

/-- The illegal words are exactly those of families 8, E and F whose discriminator has no category (R81, R82, R83, R88;
decision D3, log 9). -/
def Obligations.IllegalWordsAreThoseWithNoCategory : Prop :=
  ∀ w : Word, (∃ e, decodeWord w = .error e) ↔
    (w.toNat / 4096 = 0x8 ∧ w.toNat % 16 ∈ [0x8, 0x9, 0xA, 0xB, 0xC, 0xD, 0xF]) ∨
    (w.toNat / 4096 = 0xE ∧ w.toNat % 256 ∉ [0x9E, 0xA1]) ∨
    (w.toNat / 4096 = 0xF ∧ w.toNat % 256 ∉ [0x07, 0x0A, 0x15, 0x18, 0x1E, 0x29, 0x33, 0x55, 0x65])

/-- R72: each field is its bit range for every word, whatever the category, and the fields overlap as `nnn = x:y:n` and
`kk = y:n`. -/
def Obligations.FieldsAreTheirBitRanges : Prop :=
  ∀ w : Word,
    (fieldHigh w).toNat = w.toNat / 4096 ∧
    (decoderPorts w).nnn.toNat = w.toNat % 4096 ∧
    (decoderPorts w).n.toNat = w.toNat % 16 ∧
    (decoderPorts w).x.toNat = w.toNat / 256 % 16 ∧
    (decoderPorts w).y.toNat = w.toNat / 16 % 16 ∧
    (decoderPorts w).kk.toNat = w.toNat % 256 ∧
    (decoderPorts w).nnn = (decoderPorts w).x ++ (decoderPorts w).y ++ (decoderPorts w).n ∧
    (decoderPorts w).kk = (decoderPorts w).y ++ (decoderPorts w).n

/-- The Decoder's ports (R71, R76, R89): the word passes through; an instruction drives its tag and no fault; a fault
drives 63, which is no category (decisions D1, D2). -/
def Obligations.DecoderPortsTellFaultFromCategory : Prop :=
  ∀ w : Word,
    (decoderPorts w).raw = w ∧
    (∀ i, decodeWord w = .ok i →
      (decoderPorts w).decodeFault = false ∧ (decoderPorts w).cat.toNat = categoryTag i ∧ categoryTag i ≤ 34) ∧
    (∀ e, decodeWord w = .error e → (decoderPorts w).decodeFault = true ∧ (decoderPorts w).cat.toNat = 63)

/-- Sanity: words written out bit by bit from R85, one or more of each family, decode to the instruction they stand
for (the values marked G there are decision D3, log 9). -/
def Obligations.WordsWrittenOutDecode : Prop :=
  decodeWord 0b0000000011100000#16 = .ok .clearScreen ∧
  decodeWord 0b0000000011101110#16 = .ok .ret ∧
  decodeWord 0b0000000100100011#16 = .ok (.sys 0x123#12) ∧
  decodeWord 0b0001101010111100#16 = .ok (.jump 0xABC#12) ∧
  decodeWord 0b0101000100101111#16 = .ok (.skipEqualRegisters 0x1#4 0x2#4 0xF#4) ∧
  decodeWord 0b0110101000111011#16 = .ok (.loadImmediate 0xA#4 0x3B#8) ∧
  decodeWord 0b1000000000010100#16 = .ok (.addRegisters 0x0#4 0x1#4) ∧
  decodeWord 0b1000000100101000#16 = .error (.family8 0x8#4) ∧
  decodeWord 0b1101000000010101#16 = .ok (.drawSprite 0x0#4 0x1#4 0x5#4) ∧
  decodeWord 0b1110010010011110#16 = .ok (.skipIfKeyPressed 0x4#4) ∧
  decodeWord 0b1111001100110011#16 = .ok (.storeBcd 0x3#4) ∧
  decodeWord 0b1111001001100101#16 = .ok (.loadRegistersFromMemory 0x2#4)

/-! ### The Engine -/

/-- In `RUN = Fetching`, a step whose two bytes at `pc`, high byte first, decode to `i` is `exec i`. Around it the step
only sets `RUN` to `Executing`, which `exec` does not look at (R196, R53, R63, R201). -/
def Obligations.StepRunsTheDecodedInstruction : Prop :=
  ∀ (s : State) (w : Word) (i : Instr), s.run = .fetching → s.pc.toNat < 0xFFFF →
    w.toNat = (s.readByte s.pc.toNat).toNat * 256 + (s.readByte (s.pc.toNat + 1)).toNat →
    decodeWord w = .ok i →
    step s = exec i (s.setRun .executing) ∧ exec i (s.setRun .executing) = exec i s

/-- The two faults a step raises before any instruction executes: a fetch at `pc = 0xFFFF` (recorded with no opcode) and
a word that does not decode (recorded with the word); nothing else changes (R191, R192, R195, R200; decisions D8, D26,
D29; log 3, log 12, log 21). -/
def Obligations.StepHaltsOnFetchAndDecodeFaults : Prop :=
  (∀ s : State, s.run = .fetching → s.pc = 0xFFFF#16 →
    step s = .next { s with run := .haltedOnFault, faultRec := some ⟨.memoryFault, s.pc, none⟩ }) ∧
  (∀ (s : State) (w : Word) (e : DecodeReject), s.run = .fetching → s.pc.toNat < 0xFFFF →
    w.toNat = (s.readByte s.pc.toNat).toNat * 256 + (s.readByte (s.pc.toNat + 1)).toNat →
    decodeWord w = .error e →
    step s = .next { s with run := .haltedOnFault, faultRec := some ⟨.decodeFault, s.pc, some w⟩ })

/-- A halted engine stays as it is, however often it is stepped, and repeats its result (R203; decision D22, log 19):
only the host's other calls can change it. -/
def Obligations.HaltedEnginesStayAsTheyAre : Prop :=
  ∀ (n : Nat) (s : State), s.run = .haltedOnFault ∨ s.run = .haltedOnKey →
    runCalls (List.replicate n .step) s = .next s ∧
    (s.run = .haltedOnKey → stepResult s = .awaitingKey) ∧
    (∀ f, s.run = .haltedOnFault → s.faultRec = some f → stepResult s = .fault (some f.kind))

/-- No instruction stops the model: from every state each answers a next state, and the engine is then fetching,
waiting for a key, or halted on a fault (R100, R103, R197; a fault is taken as a next state, log 3). -/
def Obligations.EveryInstructionAnswersANextState : Prop :=
  ∀ (i : Instr) (s : State), ∃ t, exec i s = .next t ∧
    (t.run = .fetching ∨ t.run = .haltedOnKey ∨ t.run = .haltedOnFault)

/-- The invariant holds at reset: canonical memory, no step under way, no fault record (R40, R36; log 23). -/
def Obligations.ResetMeetsTheInvariant : Prop := State.Inv State.reset

/-- From every state that meets the invariant a step answers a next state, which meets it again: memory keeps its
canonical form, `Executing` is never visible, and there is a fault record exactly while halted on a fault
(R36, R197, R200; log 4, log 23). -/
def Obligations.EveryStepKeepsTheInvariant : Prop :=
  ∀ s : State, s.Inv → ∃ t, step s = .next t ∧ t.Inv

/-- The same along every schedule of host calls, in any order and number: a run never faults the model, is refused
only for an over-long program, and keeps the invariant (R205, R197, R228; decisions D30, D31; log 5, log 27). -/
def Obligations.EverySchedulePreservesTheInvariant : Prop :=
  ∀ (cs : List HostCall) (s : State), s.Inv →
    (∃ t, runCalls cs s = .next t ∧ t.Inv) ∨
    (runCalls cs s = .refused .programTooLong ∧ ∃ bs, HostCall.loadProgram bs ∈ cs ∧ 65024 < bs.length)

/-- Faults are precise and exactly those of the table: an instruction whose condition holds halts the engine with its
kind, its own `pc` and its raw opcode, and changes nothing else; any other instruction does not halt on a fault
(R105, R112, R192, R193, R200; decisions D7, D8, D9, D11, D26; log 3, log 12, log 21). -/
def Obligations.FaultsArePreciseAndThoseOfTheTable : Prop :=
  ∀ (i : Instr) (s : State),
    (∀ k, faultOf i s = some k →
      exec i s = .next { s with run := .haltedOnFault, faultRec := some ⟨k, s.pc, some (encode i)⟩ }) ∧
    (faultOf i s = none → ∀ t, exec i s = .next t → t.run ≠ .haltedOnFault ∧ t.faultRec = s.faultRec)

/-- The program counter moves only by an action its category may return, once, from the pre-step `pc`, modulo 65536;
a step that faults or waits leaves it (R24, R102, R198, R200; decisions D12, D18; log 15, log 18). -/
def Obligations.PcMovesByTheCategorysAction : Prop :=
  ∀ (i : Instr) (s t : State), exec i s = .next t →
    (t.run = .fetching → ∃ a, ActionAllowed i a ∧
      (a = .advance → t.pc.toNat = (s.pc.toNat + 2) % 65536) ∧
      (a = .skipNext → t.pc.toNat = (s.pc.toNat + 4) % 65536) ∧
      (∀ target, a = .jump target → t.pc = target)) ∧
    (t.run ≠ .fetching → t.pc = s.pc)

/-- No instruction reads `RUN` or `FAULTREC`: changing them before changes nothing else after (R201). -/
def Obligations.NoInstructionReadsRunOrFaultRecord : Prop :=
  ∀ (i : Instr) (s t : State) (r : RunState) (f : Option FaultRec), exec i s = .next t →
    ∃ t', exec i { s with run := r, faultRec := f } = .next t' ∧
      t'.run = t.run ∧ { t' with faultRec := t.faultRec } = t

/-! ### Reset, program load, host calls -/

/-- The state after reset, and after the host's `reset()` from any state. R40's table: the source states the registers,
`pc`, `SP` and `RUN`; `I`, the timers, the stack, the display, memory outside the font, `KEYDST` and `FAULTREC` are
decision D23 (log 7), the font's 80 bytes, each as R222's table has it, decision D24 (log 8). The consultations of the environment are the model's own
and go on (log 26). -/
def Obligations.ResetLeavesTheValuesOfTheTable : Prop :=
  (∀ r : Nibble, State.reset.reg r = 0x00#8) ∧
  State.reset.pc = 0x0200#16 ∧ State.reset.sp.val = 0 ∧ State.reset.run = .fetching ∧
  State.reset.i = 0x0000#16 ∧ State.reset.dt = 0x00#8 ∧ State.reset.st = 0x00#8 ∧
  (∀ j : Fin 16, State.reset.stk[j] = 0x0000#16) ∧
  (∀ r c : Nat, State.reset.disp.pixel r c = false) ∧
  State.reset.keyDst = 0x0#4 ∧ State.reset.faultRec = none ∧
  glyphBytesOfR222.length = 80 ∧
  (∀ a : Nat, State.reset.readByte a =
    if 0x050 ≤ a ∧ a ≤ 0x09F then glyphBytesOfR222.getD (a - 0x050) 0x00#8 else 0x00#8) ∧
  (∀ s : State, hostCall .reset s = .next { State.reset with draws := s.draws })

/-- A program load puts the bytes from 0x200 on, in order, and touches nothing else; a program of more than 65024 bytes
is refused; with `pc` at 0x200 the first fetch then reads the first two bytes, high byte first
(R51, R223, R228; decision D30, log 27). -/
def Obligations.ProgramLoadPlacesTheBytes : Prop :=
  ∀ (bs : List Byte) (s : State), Memory.wf s.mem = true →
    (bs.length ≤ 65024 → ∃ t, hostCall (.loadProgram bs) s = .next t ∧
      (∀ (k : Nat) (h : k < bs.length), t.readByte (0x200 + k) = bs[k]) ∧
      (∀ a : Nat, a < 0x200 ∨ 0x200 + bs.length ≤ a → t.readByte a = s.readByte a) ∧
      t = { s with mem := t.mem } ∧ Memory.wf t.mem = true ∧
      (∀ (h : 2 ≤ bs.length), s.pc = 0x0200#16 →
        ∃ w, fetch t = some w ∧ w.toNat = (bs[0]'(by omega)).toNat * 256 + (bs[1]'(by omega)).toNat)) ∧
    (65024 < bs.length → hostCall (.loadProgram bs) s = .refused .programTooLong)

/-- `tickTimers()` counts both timers down, each saturating at 0, in every engine state, and changes nothing else
(R206; decisions D22, D32, log 19). -/
def Obligations.TickTimersCountsBothTimersDown : Prop :=
  ∀ s : State, ∃ t, hostCall .tickTimers s = .next t ∧
    t.dt.toNat = s.dt.toNat - 1 ∧ t.st.toNat = s.st.toNat - 1 ∧ t = { s with dt := t.dt, st := t.st }

/-- `supplyKey(value)` outside a key wait changes nothing; in a key wait it writes the value modulo 256 to the waiting
register, advances, and fetches again (R208, R209; decisions D18, D22, log 18, log 19). That `KEYDST` keeps its value
afterwards, which the frame of the second clause says, is the model's own choice (log 25): R36 gives it no meaning
there. -/
def Obligations.SupplyKeyResolvesOnlyAKeyWait : Prop :=
  ∀ (s : State) (value : Nat),
    (s.run ≠ .haltedOnKey → hostCall (.supplyKey value) s = .next s) ∧
    (s.run = .haltedOnKey → ∃ t, hostCall (.supplyKey value) s = .next t ∧
      (t.reg s.keyDst).toNat = value % 256 ∧ (∀ r, r ≠ s.keyDst → t.reg r = s.reg r) ∧
      t = { s with v := t.v, pc := s.pc + 2, run := .fetching })

/-- R204: `HaltedOnKey` is the only wait, entered by load-from-key-blocking alone; through it all state survives but
the timers, and only `supplyKey` or `reset` ends it. (A program load is made before the first step, R228, so the
schedules of the second clause hold none.) -/
def Obligations.TheKeyWaitKeepsAllButTheTimers : Prop :=
  (∀ (i : Instr) (s t : State), exec i s = .next t → t.run = .haltedOnKey → ∃ x, i = .loadFromKeyBlocking x) ∧
  (∀ (cs : List HostCall) (s : State), s.run = .haltedOnKey →
    (∀ c ∈ cs, c = .step ∨ c = .tickTimers ∨ c = .displaySnapshot) →
    ∃ t, runCalls cs s = .next t ∧ t = { s with dt := t.dt, st := t.st }) ∧
  (∀ (c : HostCall) (s t : State), s.run = .haltedOnKey → hostCall c s = .next t → t.run ≠ .haltedOnKey →
    c = .reset ∨ ∃ value, c = .supplyKey value)

/-! ### Who writes and reads each piece of state -/

/-- R34: `DT` is written by load-to-delay-timer, read by load-from-delay-timer and by no other instruction, and
otherwise changed only by `tickTimers` (and reset), never by executing. -/
def Obligations.DelayTimerHasOneWriterAndOneReader : Prop :=
  (∀ (x : Nibble) (s : State),
    exec (.loadToDelayTimer x) s = .next { s with dt := s.reg x, pc := s.pc + 2, run := .fetching }) ∧
  (∀ (x : Nibble) (s : State), ∃ t, exec (.loadFromDelayTimer x) s = .next t ∧ t.reg x = s.dt ∧
    (∀ r, r ≠ x → t.reg r = s.reg r) ∧ t = { s with v := t.v, pc := s.pc + 2, run := .fetching }) ∧
  (∀ (i : Instr) (s t : State), exec i s = .next t → t.dt ≠ s.dt → ∃ x, i = .loadToDelayTimer x) ∧
  (∀ (i : Instr) (s t : State) (b : Byte), (∀ x, i ≠ .loadFromDelayTimer x) → exec i s = .next t →
    ∃ t', exec i { s with dt := b } = .next t' ∧ { t' with dt := t.dt } = t) ∧
  (∀ (c : HostCall) (s t : State), hostCall c s = .next t → t.dt ≠ s.dt →
    (c = .tickTimers ∧ t.dt.toNat + 1 = s.dt.toNat) ∨ c = .reset ∨ c = .step)

/-- R35: `ST` is written by load-to-sound-timer, read by no instruction, and otherwise changed only by `tickTimers`
(and reset). -/
def Obligations.SoundTimerHasOneWriterAndNoReader : Prop :=
  (∀ (x : Nibble) (s : State),
    exec (.loadToSoundTimer x) s = .next { s with st := s.reg x, pc := s.pc + 2, run := .fetching }) ∧
  (∀ (i : Instr) (s t : State), exec i s = .next t → t.st ≠ s.st → ∃ x, i = .loadToSoundTimer x) ∧
  (∀ (i : Instr) (s t : State) (b : Byte), exec i s = .next t →
    ∃ t', exec i { s with st := b } = .next t' ∧ { t' with st := t.st } = t) ∧
  (∀ (c : HostCall) (s t : State), hostCall c s = .next t → t.st ≠ s.st →
    (c = .tickTimers ∧ t.st.toNat + 1 = s.st.toNat) ∨ c = .reset ∨ c = .step)

/-- R28: `I` is written by load-index-immediate (at most 0x0FFF), add-to-index and load-font-address alone, read by the
five instructions listed and no other, and copied into no general register. -/
def Obligations.IndexRegisterHasItsWritersAndReaders : Prop :=
  (∀ (i : Instr) (s t : State), exec i s = .next t → t.i ≠ s.i →
    (∃ nnn, i = .loadIndexImmediate nnn ∧ t.i.toNat ≤ 0x0FFF) ∨ (∃ x, i = .addToIndex x) ∨
    (∃ x, i = .loadFontAddress x)) ∧
  (∀ (i : Instr) (s t : State) (a : Word), (∀ x, i ≠ .addToIndex x) → (∀ x y n, i ≠ .drawSprite x y n) →
    (∀ x, i ≠ .storeBcd x) → (∀ x, i ≠ .storeRegistersToMemory x) → (∀ x, i ≠ .loadRegistersFromMemory x) →
    exec i s = .next t → ∃ t', exec i { s with i := a } = .next t' ∧ { t' with i := t.i } = t) ∧
  (∀ (x : Nibble) (s t : State) (a : Word), exec (.addToIndex x) s = .next t →
    ∃ t', exec (.addToIndex x) { s with i := a } = .next t' ∧ t'.v = t.v ∧ t.v = s.v)

/-- R32: the display is written only by clear-screen and draw-sprite, and by reset; it is read by draw-sprite and by
`displaySnapshot()`, which changes nothing. -/
def Obligations.DisplayHasItsWritersAndReaders : Prop :=
  (∀ (i : Instr) (s t : State), exec i s = .next t → t.disp ≠ s.disp →
    i = .clearScreen ∨ ∃ x y n, i = .drawSprite x y n) ∧
  (∀ (i : Instr) (s t : State) (d : Display), (∀ x y n, i ≠ .drawSprite x y n) → exec i s = .next t →
    ∃ t', exec i { s with disp := d } = .next t' ∧ { t' with disp := t.disp } = t) ∧
  (∀ (c : HostCall) (s t : State), hostCall c s = .next t → t.disp ≠ s.disp → c = .reset ∨ c = .step) ∧
  (∀ s : State, hostCall .displaySnapshot s = .next s ∧ s.displaySnapshot = s.disp)

/-- R21 and R22: the only general registers an instruction changes are those the register access table writes: `Vx`,
the block `V[0..x]`, and `VF` for the six flag-producing categories (decision D17, log 14). -/
def Obligations.OnlyTheTabledRegistersAreWritten : Prop :=
  ∀ (i : Instr) (s t : State) (r : Nibble), exec i s = .next t → t.reg r ≠ s.reg r → WritesRegister i r

/-- R29, R30: only call and return touch the stack, and the entries at or above `SP` are dead: changing them changes
nothing but dead entries (decision D11, log 17). -/
def Obligations.DeadStackEntriesAreNeverRead : Prop :=
  (∀ (i : Instr) (s t : State), exec i s = .next t → t.stk ≠ s.stk ∨ t.sp ≠ s.sp → i = .ret ∨ ∃ a, i = .call a) ∧
  (∀ (i : Instr) (s t : State) (e : Vector Word 16), (∀ j : Fin 16, j.val < s.sp.val → e[j] = s.stk[j]) →
    exec i s = .next t →
    ∃ t', exec i { s with stk := e } = .next t' ∧ { t' with stk := t.stk } = t ∧
      (∀ j : Fin 16, j.val < t.sp.val → t'.stk[j] = t.stk[j]))

/-- The only bytes an instruction changes are the three at `I` for store-bcd and the `x + 1` at `I` for
store-registers-to-memory (R57, R58, R163, R164). -/
def Obligations.OnlyTheTwoStoresChangeMemory : Prop :=
  ∀ (i : Instr) (s t : State) (a : Nat), exec i s = .next t → t.readByte a ≠ s.readByte a →
    (∃ x, i = .storeBcd x ∧ dataBase s ≤ a ∧ a ≤ dataBase s + 2) ∨
    (∃ x, i = .storeRegistersToMemory x ∧ dataBase s ≤ a ∧ a ≤ dataBase s + x.toNat)

/-- Canonical memories that read alike at every address are equal data (R37, R58; the form is the model's, log 23). -/
def Obligations.MemoriesThatReadAlikeAreEqual : Prop :=
  ∀ m m' : Memory, Memory.wf m = true → Memory.wf m' = true →
    (∀ a : Nat, a < 0x10000 → Memory.read m a = Memory.read m' a) → m = m'

/-! ### Control flow -/

/-- R120: sys only advances. That every word 0x0000 to 0x0FFF but 00E0 and 00EE is sys is R80's decision D4 (log 10).
-/
def Obligations.SysOnlyAdvances : Prop :=
  ∀ (nnn : Addr) (s : State),
    (nnn ≠ 0x0E0#12 → nnn ≠ 0x0EE#12 → Encodes (0x0#4 ++ nnn) 34 (.sys nnn)) ∧
    exec (.sys nnn) s = .next { s with pc := s.pc + 2, run := .fetching }

/-- R122: jump loads `nnn`, zero-extended, with no further advance; and a jump to its own address is an endless loop of
one step, not a fault and not a halt. That an odd `nnn` is accepted is R55's decision D21 (log 16). -/
def Obligations.JumpGoesToItsAddress : Prop :=
  ∀ (nnn : Addr) (s : State),
    Encodes (0x1#4 ++ nnn) 2 (.jump nnn) ∧
    exec (.jump nnn) s = .next { s with pc := nnn.setWidth 16, run := .fetching } ∧
    (s.run = .fetching → fetch s = some (0x1#4 ++ nnn) → s.pc = nnn.setWidth 16 → step s = .next s)

/-- R123: on a stack that is not full, call pushes its own address and jumps; on a full one it is a StackFault and
nothing is pushed (decisions D10, D11, D26; log 17, log 21; opcode value D3, log 9). -/
def Obligations.CallPushesItsOwnAddress : Prop :=
  ∀ (nnn : Addr) (s : State),
    Encodes (0x2#4 ++ nnn) 3 (.call nnn) ∧
    (∀ h : s.sp.val < 16, ∃ t, exec (.call nnn) s = .next t ∧ t.sp.val = s.sp.val + 1 ∧
      t.stk[s.sp.val]'h = s.pc ∧ (∀ j : Fin 16, j.val ≠ s.sp.val → t.stk[j] = s.stk[j]) ∧
      t = { s with stk := t.stk, sp := t.sp, pc := nnn.setWidth 16, run := .fetching }) ∧
    (s.sp.val = 16 → exec (.call nnn) s =
      .next { s with run := .haltedOnFault, faultRec := some ⟨.stackFault, s.pc, some (0x2#4 ++ nnn)⟩ })

/-- R121: on a stack that is not empty, return pops and resumes two bytes after the popped address, modulo 65536, the
popped entry staying; on an empty one it is a StackFault (decisions D10, D11, D12, D26; log 15, log 17, log 21;
opcode value D3, log 9). -/
def Obligations.ReturnResumesAfterThePoppedAddress : Prop :=
  Encodes 0x00EE#16 1 .ret ∧
  ∀ s : State,
    (∀ h : s.sp.val ≠ 0, ∃ t, exec .ret s = .next t ∧ t.sp.val + 1 = s.sp.val ∧
      t.pc = s.stk[s.sp.val - 1]'(by have := s.sp.isLt; omega) + 2 ∧
      t = { s with sp := t.sp, pc := t.pc, run := .fetching }) ∧
    (s.sp.val = 0 → exec .ret s =
      .next { s with run := .haltedOnFault, faultRec := some ⟨.stackFault, s.pc, some 0x00EE#16⟩ })

/-- Nested calls and their returns (R121, R123, R130): any calls that fit on the stack all succeed, and the k-th return
then resumes two bytes after the k-th call from the last, so that program counters come back in reverse call order
(decisions D10, D11, D12; log 17). One call too many halts on a StackFault. -/
def Obligations.ReturnsResumeInReverseCallOrder : Prop :=
  ∀ (as : List Addr) (s : State),
    (s.sp.val + as.length ≤ 16 → ∃ t, callAll as s = .next t ∧ t.sp.val = s.sp.val + as.length ∧
      (∀ k : Nat, 1 ≤ k → k ≤ as.length → ∃ u, returnTimes k t = .next u ∧
        (callSites as s.pc)[as.length - k]?.map (· + 2) = some u.pc ∧
        u.sp.val + k = s.sp.val + as.length ∧
        u = { s with stk := u.stk, sp := u.sp, pc := u.pc, run := .fetching })) ∧
    (as ≠ [] → s.sp.val + as.length = 17 → ∃ t r, callAll as s = .next t ∧ t.run = .haltedOnFault ∧
      t.faultRec = some r ∧ r.kind = .stackFault ∧ t.sp.val = 16)

/-- R124, R125: the immediate skips compare the unsigned byte `V[x]` with `kk` and skip four bytes or advance two; they
change nothing else (the opcode values are decision D3, log 9; the wrap of `pc` is D12, log 15). -/
def Obligations.ImmediateSkipsCompareAByte : Prop :=
  ∀ (x : Nibble) (kk : Byte) (s : State),
    Encodes (0x3#4 ++ x ++ kk) 4 (.skipEqualImmediate x kk) ∧
    exec (.skipEqualImmediate x kk) s =
      .next { s with pc := if s.reg x = kk then s.pc + 4 else s.pc + 2, run := .fetching } ∧
    Encodes (0x4#4 ++ x ++ kk) 5 (.skipNotEqualImmediate x kk) ∧
    exec (.skipNotEqualImmediate x kk) s =
      .next { s with pc := if s.reg x = kk then s.pc + 2 else s.pc + 4, run := .fetching }

/-- R126, R127: the register skips compare `V[x]` with `V[y]`; the low nibble of the word has no effect (decision D5,
log 11; D3, log 9; D12, log 15). -/
def Obligations.RegisterSkipsIgnoreTheLowNibble : Prop :=
  ∀ (x y n : Nibble) (s : State),
    Encodes (0x5#4 ++ x ++ y ++ n) 6 (.skipEqualRegisters x y n) ∧
    exec (.skipEqualRegisters x y n) s =
      .next { s with pc := if s.reg x = s.reg y then s.pc + 4 else s.pc + 2, run := .fetching } ∧
    Encodes (0x9#4 ++ x ++ y ++ n) 18 (.skipNotEqualRegisters x y n) ∧
    exec (.skipNotEqualRegisters x y n) s =
      .next { s with pc := if s.reg x = s.reg y then s.pc + 2 else s.pc + 4, run := .fetching }

/-- R128: jump-with-offset goes to `V[0] + nnn`, never masked to 12 bits and never above 0x10FE (the opcode value is
decision D3, log 9). -/
def Obligations.JumpWithOffsetAddsRegisterZero : Prop :=
  ∀ (nnn : Addr) (s : State),
    Encodes (0xB#4 ++ nnn) 20 (.jumpWithOffset nnn) ∧
    ∃ t, exec (.jumpWithOffset nnn) s = .next t ∧
      t.pc.toNat = (s.reg 0x0#4).toNat + nnn.toNat ∧ t.pc.toNat ≤ 0x10FE ∧
      t = { s with pc := t.pc, run := .fetching }

/-! ### Loads and arithmetic -/

/-- R140: load-immediate writes `kk` to `V[x]` and nothing else. That `VF` is an ordinary destination when `x = 15` is
R22's decision D17 (log 14). -/
def Obligations.LoadImmediateWritesTheByte : Prop :=
  ∀ (x : Nibble) (kk : Byte) (s : State),
    Encodes (0x6#4 ++ x ++ kk) 7 (.loadImmediate x kk) ∧
    ∃ t, exec (.loadImmediate x kk) s = .next t ∧ t.reg x = kk ∧ (∀ r, r ≠ x → t.reg r = s.reg r) ∧
      t = { s with v := t.v, pc := s.pc + 2, run := .fetching }

/-- R141: add-immediate adds modulo 256 and sets no flag, also when it wraps (opcode value: decision D3, log 9). -/
def Obligations.AddImmediateWrapsWithNoFlag : Prop :=
  ∀ (x : Nibble) (kk : Byte) (s : State),
    Encodes (0x7#4 ++ x ++ kk) 8 (.addImmediate x kk) ∧
    ∃ t, exec (.addImmediate x kk) s = .next t ∧ (t.reg x).toNat = ((s.reg x).toNat + kk.toNat) % 256 ∧
      (∀ r, r ≠ x → t.reg r = s.reg r) ∧ t = { s with v := t.v, pc := s.pc + 2, run := .fetching }

/-- R142 to R145: load-register, or, and, xor write `V[x]` from the pre-step operands and set no flag (opcode values:
decision D3, log 9). -/
def Obligations.MovesAndLogicWriteOneRegister : Prop :=
  ∀ (x y : Nibble) (s : State),
    Encodes (0x8#4 ++ x ++ y ++ 0x0#4) 9 (.loadRegister x y) ∧
    (∃ t, exec (.loadRegister x y) s = .next t ∧ t.reg x = s.reg y ∧ (∀ r, r ≠ x → t.reg r = s.reg r) ∧
      t = { s with v := t.v, pc := s.pc + 2, run := .fetching }) ∧
    Encodes (0x8#4 ++ x ++ y ++ 0x1#4) 10 (.orRegisters x y) ∧
    (∃ t, exec (.orRegisters x y) s = .next t ∧
      (∀ k, (t.reg x).getLsbD k = ((s.reg x).getLsbD k || (s.reg y).getLsbD k)) ∧ (∀ r, r ≠ x → t.reg r = s.reg r) ∧
      t = { s with v := t.v, pc := s.pc + 2, run := .fetching }) ∧
    Encodes (0x8#4 ++ x ++ y ++ 0x2#4) 11 (.andRegisters x y) ∧
    (∃ t, exec (.andRegisters x y) s = .next t ∧
      (∀ k, (t.reg x).getLsbD k = ((s.reg x).getLsbD k && (s.reg y).getLsbD k)) ∧ (∀ r, r ≠ x → t.reg r = s.reg r) ∧
      t = { s with v := t.v, pc := s.pc + 2, run := .fetching }) ∧
    Encodes (0x8#4 ++ x ++ y ++ 0x3#4) 12 (.xorRegisters x y) ∧
    (∃ t, exec (.xorRegisters x y) s = .next t ∧
      (∀ k, (t.reg x).getLsbD k = ((s.reg x).getLsbD k ^^ (s.reg y).getLsbD k)) ∧ (∀ r, r ≠ x → t.reg r = s.reg r) ∧
      t = { s with v := t.v, pc := s.pc + 2, run := .fetching })

/-- R146: add-registers gives the sum modulo 256 and the carry of the original operands; with `x = 15` the flag is what
`VF` holds (R27, R108; decision D15, log 14). -/
def Obligations.AddRegistersSetsTheCarry : Prop :=
  ∀ (x y : Nibble) (s : State),
    Encodes (0x8#4 ++ x ++ y ++ 0x4#4) 13 (.addRegisters x y) ∧
    ∃ t, exec (.addRegisters x y) s = .next t ∧
      (x ≠ 0xF#4 → (t.reg x).toNat = ((s.reg x).toNat + (s.reg y).toNat) % 256) ∧
      (t.reg 0xF#4).toNat = (if (s.reg x).toNat + (s.reg y).toNat > 255 then 1 else 0) ∧
      (∀ r, r ≠ x → r ≠ 0xF#4 → t.reg r = s.reg r) ∧ t = { s with v := t.v, pc := s.pc + 2, run := .fetching }

/-- R147, R148: the two subtractions, non-negative remainder modulo 256, and the not-borrow flag (equal operands give
0 and 1); sub-reverse subtracts the other way round, still into `V[x]`; with `x = 15` the flag wins (R27, R108;
decisions D15, log 14, and D3, log 9). -/
def Obligations.SubtractionsSetNotBorrow : Prop :=
  ∀ (x y : Nibble) (s : State),
    Encodes (0x8#4 ++ x ++ y ++ 0x5#4) 14 (.subRegisters x y) ∧
    (∃ t, exec (.subRegisters x y) s = .next t ∧
      (x ≠ 0xF#4 → ((t.reg x).toNat : Int) = (((s.reg x).toNat : Int) - (s.reg y).toNat) % 256) ∧
      (t.reg 0xF#4).toNat = (if (s.reg x).toNat ≥ (s.reg y).toNat then 1 else 0) ∧
      (∀ r, r ≠ x → r ≠ 0xF#4 → t.reg r = s.reg r) ∧ t = { s with v := t.v, pc := s.pc + 2, run := .fetching }) ∧
    Encodes (0x8#4 ++ x ++ y ++ 0x7#4) 16 (.subReverse x y) ∧
    (∃ t, exec (.subReverse x y) s = .next t ∧
      (x ≠ 0xF#4 → ((t.reg x).toNat : Int) = (((s.reg y).toNat : Int) - (s.reg x).toNat) % 256) ∧
      (t.reg 0xF#4).toNat = (if (s.reg y).toNat ≥ (s.reg x).toNat then 1 else 0) ∧
      (∀ r, r ≠ x → r ≠ 0xF#4 → t.reg r = s.reg r) ∧ t = { s with v := t.v, pc := s.pc + 2, run := .fetching })

/-- R149, R150, R151: the shifts move `V[x]` one place, whatever `y` is, and the flag is the bit shifted out, bit 0 or
bit 7 of the original; with `x = 15` the flag wins (R27, R109; decisions D15, log 14, and D3, log 9). -/
def Obligations.ShiftsSetTheBitShiftedOut : Prop :=
  ∀ (x y : Nibble) (s : State),
    Encodes (0x8#4 ++ x ++ y ++ 0x6#4) 15 (.shiftRight x y) ∧
    (∃ t, exec (.shiftRight x y) s = .next t ∧
      (x ≠ 0xF#4 → (t.reg x).toNat = (s.reg x).toNat / 2) ∧ (t.reg 0xF#4).toNat = (s.reg x).toNat % 2 ∧
      (∀ r, r ≠ x → r ≠ 0xF#4 → t.reg r = s.reg r) ∧ t = { s with v := t.v, pc := s.pc + 2, run := .fetching }) ∧
    Encodes (0x8#4 ++ x ++ y ++ 0xE#4) 17 (.shiftLeft x y) ∧
    (∃ t, exec (.shiftLeft x y) s = .next t ∧
      (x ≠ 0xF#4 → (t.reg x).toNat = (s.reg x).toNat * 2 % 256) ∧ (t.reg 0xF#4).toNat = (s.reg x).toNat / 128 ∧
      (∀ r, r ≠ x → r ≠ 0xF#4 → t.reg r = s.reg r) ∧ t = { s with v := t.v, pc := s.pc + 2, run := .fetching })

/-! ### Index register and memory -/

/-- R160: load-index-immediate loads `nnn`, zero-extended (opcode value: decision D3, log 9). -/
def Obligations.LoadIndexImmediateLoadsTheAddress : Prop :=
  ∀ (nnn : Addr) (s : State),
    Encodes (0xA#4 ++ nnn) 19 (.loadIndexImmediate nnn) ∧
    exec (.loadIndexImmediate nnn) s = .next { s with i := nnn.setWidth 16, pc := s.pc + 2, run := .fetching }

/-- R161: add-to-index adds modulo 65536 and sets no flag (decision D13, log 15; opcode value D3, log 9). -/
def Obligations.AddToIndexWrapsWithNoFlag : Prop :=
  ∀ (x : Nibble) (s : State),
    Encodes (0xF#4 ++ x ++ 0x1E#8) 29 (.addToIndex x) ∧
    ∃ t, exec (.addToIndex x) s = .next t ∧ t.i.toNat = (s.i.toNat + (s.reg x).toNat) % 65536 ∧
      t = { s with i := t.i, pc := s.pc + 2, run := .fetching }

/-- R162: load-font-address gives five times the whole byte, with base 0, though the font is at 0x050 (decision D14,
log 13; opcode value D3, log 9). -/
def Obligations.LoadFontAddressTakesTheWholeByte : Prop :=
  ∀ (x : Nibble) (s : State),
    Encodes (0xF#4 ++ x ++ 0x29#8) 30 (.loadFontAddress x) ∧
    ∃ t, exec (.loadFontAddress x) s = .next t ∧ t.i.toNat = (s.reg x).toNat * 5 ∧
      t = { s with i := t.i, pc := s.pc + 2, run := .fetching }

/-- R163: store-bcd writes hundreds, tens, units at `I`, `I+1`, `I+2`; every other byte, and `I`, are unchanged; an
access beyond 0xFFFF is a MemoryFault and writes nothing (R56; decisions D7, D9, D26, log 12, log 21; opcode value
D3, log 9). -/
def Obligations.StoreBcdWritesThreeDigits : Prop :=
  ∀ (x : Nibble) (s : State), Memory.wf s.mem = true →
    Encodes (0xF#4 ++ x ++ 0x33#8) 31 (.storeBcd x) ∧
    (s.i.toNat + 2 ≤ 0xFFFF → ∃ t, exec (.storeBcd x) s = .next t ∧
      (t.readByte (dataBase s)).toNat = (s.reg x).toNat / 100 ∧
      (t.readByte (dataBase s + 1)).toNat = (s.reg x).toNat / 10 % 10 ∧
      (t.readByte (dataBase s + 2)).toNat = (s.reg x).toNat % 10 ∧
      (∀ a : Nat, a < dataBase s ∨ dataBase s + 2 < a → t.readByte a = s.readByte a) ∧
      t = { s with mem := t.mem, pc := s.pc + 2, run := .fetching }) ∧
    (0xFFFF < s.i.toNat + 2 → exec (.storeBcd x) s = .next { s with
      run := .haltedOnFault, faultRec := some ⟨.memoryFault, s.pc, some (0xF#4 ++ x ++ 0x33#8)⟩ })

/-- R164: store-registers-to-memory writes `V[r]` at `I + r` for `r` from 0 to `x`, `VF` included when `x = 15`; every
other byte, and `I`, are unchanged; an access beyond 0xFFFF is a MemoryFault and writes nothing
(R56; decisions D7, D9, D26, log 12, log 21; opcode value D3, log 9). -/
def Obligations.StoreRegistersWritesTheBlock : Prop :=
  ∀ (x : Nibble) (s : State), Memory.wf s.mem = true →
    Encodes (0xF#4 ++ x ++ 0x55#8) 32 (.storeRegistersToMemory x) ∧
    (s.i.toNat + x.toNat ≤ 0xFFFF → ∃ t, exec (.storeRegistersToMemory x) s = .next t ∧
      (∀ r : Nibble, r.toNat ≤ x.toNat → t.readByte (dataBase s + r.toNat) = s.reg r) ∧
      (∀ a : Nat, a < dataBase s ∨ dataBase s + x.toNat < a → t.readByte a = s.readByte a) ∧
      t = { s with mem := t.mem, pc := s.pc + 2, run := .fetching }) ∧
    (0xFFFF < s.i.toNat + x.toNat → exec (.storeRegistersToMemory x) s = .next { s with
      run := .haltedOnFault, faultRec := some ⟨.memoryFault, s.pc, some (0xF#4 ++ x ++ 0x55#8)⟩ })

/-- R165: load-registers-from-memory loads `V[r]` from `I + r` for `r` from 0 to `x`; the registers above, `I` and
memory are unchanged; an access beyond 0xFFFF is a MemoryFault and loads nothing
(R56; decisions D8, D9, D26, log 12, log 21; opcode value D3, log 9). -/
def Obligations.LoadRegistersReadsTheBlock : Prop :=
  ∀ (x : Nibble) (s : State),
    Encodes (0xF#4 ++ x ++ 0x65#8) 33 (.loadRegistersFromMemory x) ∧
    (s.i.toNat + x.toNat ≤ 0xFFFF → ∃ t, exec (.loadRegistersFromMemory x) s = .next t ∧
      (∀ r : Nibble, r.toNat ≤ x.toNat → t.reg r = s.readByte (s.i.toNat + r.toNat)) ∧
      (∀ r : Nibble, x.toNat < r.toNat → t.reg r = s.reg r) ∧
      t = { s with v := t.v, pc := s.pc + 2, run := .fetching }) ∧
    (0xFFFF < s.i.toNat + x.toNat → exec (.loadRegistersFromMemory x) s = .next { s with
      run := .haltedOnFault, faultRec := some ⟨.memoryFault, s.pc, some (0xF#4 ++ x ++ 0x65#8)⟩ })

/-- What one block store wrote, a block load through the same `I` and `x` reads back into the registers, whatever the
registers held in between (R59, R164, R165; decisions D7, D8, log 12). -/
def Obligations.BlockLoadReadsBackTheBlockStored : Prop :=
  ∀ (x : Nibble) (s : State), Memory.wf s.mem = true → s.i.toNat + x.toNat ≤ 0xFFFF →
    ∃ t, exec (.storeRegistersToMemory x) s = .next t ∧
      ∀ v : Vector Byte 16, ∃ u, exec (.loadRegistersFromMemory x) { t with v := v } = .next u ∧
        (∀ r : Nibble, r.toNat ≤ x.toNat → u.reg r = s.reg r) ∧
        (∀ r : Nibble, x.toNat < r.toNat → u.reg r = v[r.toNat]'r.isLt) ∧ u.mem = t.mem ∧ u.i = s.i

/-! ### The display -/

/-- R170: clear-screen zeroes all 2048 pixels and touches nothing else, `VF` included. -/
def Obligations.ClearScreenZeroesThePixels : Prop :=
  Encodes 0x00E0#16 0 .clearScreen ∧
  ∀ s : State, ∃ t, exec .clearScreen s = .next t ∧ (∀ r c : Nat, t.disp.pixel r c = false) ∧
    t = { s with disp := t.disp, pc := s.pc + 2, run := .fetching }

/-- R33: every row index is taken modulo 32 and every column index modulo 64: a read and a write of a pixel depend on
the wrapped indices alone, and so does a whole draw on its start coordinates; so no display fault exists. The third
clause, that the only fault a draw has is the memory bound on its sprite bytes, is R112 and R171 with decisions D7 and
D8 (log 12). -/
def Obligations.DisplayIndicesAreWrapped : Prop :=
  (∀ (d : Display) (r c : Nat) (p : Bool), d.pixel r c = d.pixel (r % 32) (c % 64) ∧
    d.setPixel r c p = d.setPixel (r % 32) (c % 64) p) ∧
  (∀ (x y n : Nibble) (s s' t t' : State), s'.i = s.i → s'.mem = s.mem → s'.disp = s.disp →
    (s'.reg x).toNat % 64 = (s.reg x).toNat % 64 → (s'.reg y).toNat % 32 = (s.reg y).toNat % 32 →
    exec (.drawSprite x y n) s = .next t → exec (.drawSprite x y n) s' = .next t' →
    t'.disp = t.disp ∧ t'.run = t.run ∧ (t.run = .fetching → t'.reg 0xF#4 = t.reg 0xF#4)) ∧
  (∀ (x y n : Nibble) (s t : State), exec (.drawSprite x y n) s = .next t → t.run = .haltedOnFault →
    1 ≤ n.toNat ∧ 0xFFFF < s.i.toNat + n.toNat - 1)

/-- R171, R172: draw-sprite, pixel by pixel. Each display pixel becomes old XOR the sprite pixel that falls on it, rows
and columns wrapped, and `VF` is 1 exactly when some pixel went from set to unset; registers other than `VF`, `I` and
memory are unchanged; with `n = 0` nothing is drawn and `VF` is 0. The loop of R171 visits pixels in order; this says
the result does not depend on the order. Sprite bytes beyond 0xFFFF are a MemoryFault and draw nothing
(decisions D8, D9, D25, D26; log 12, log 21, log 22; opcode value D3, log 9). -/
def Obligations.DrawSpriteXorsTheSpriteOntoTheDisplay : Prop :=
  ∀ (x y n : Nibble) (s : State),
    Encodes (0xD#4 ++ x ++ y ++ n) 22 (.drawSprite x y n) ∧
    (n.toNat = 0 ∨ s.i.toNat + n.toNat - 1 ≤ 0xFFFF → ∃ t, exec (.drawSprite x y n) s = .next t ∧
      (∀ r c : Nat, r < 32 → c < 64 → t.disp.pixel r c =
        (s.disp.pixel r c ^^ spriteOn s.mem s.i.toNat (s.reg x).toNat (s.reg y).toNat n.toNat r c)) ∧
      (t.reg 0xF#4 = 0x01#8 ∨ t.reg 0xF#4 = 0x00#8) ∧
      (t.reg 0xF#4 = 0x01#8 ↔
        ∃ r c : Nat, r < 32 ∧ c < 64 ∧ s.disp.pixel r c = true ∧ t.disp.pixel r c = false) ∧
      (∀ r, r ≠ 0xF#4 → t.reg r = s.reg r) ∧
      t = { s with v := t.v, disp := t.disp, pc := s.pc + 2, run := .fetching }) ∧
    (1 ≤ n.toNat → 0xFFFF < s.i.toNat + n.toNat - 1 → exec (.drawSprite x y n) s = .next { s with
      run := .haltedOnFault, faultRec := some ⟨.memoryFault, s.pc, some (0xD#4 ++ x ++ y ++ n)⟩ })

/-- Drawing a sprite twice at the same coordinates gives the display back (R171 and its example), and on a clear display
the second draw collides exactly when the sprite has a set pixel. The coordinate registers are not `VF`, which the first
draw overwrites (decisions D8, D25; log 12, log 22). -/
def Obligations.DrawingTwiceRestoresTheDisplay : Prop :=
  ∀ (x y n : Nibble) (s : State), x ≠ 0xF#4 → y ≠ 0xF#4 → n.toNat = 0 ∨ s.i.toNat + n.toNat - 1 ≤ 0xFFFF →
    ∃ t u, exec (.drawSprite x y n) s = .next t ∧ exec (.drawSprite x y n) t = .next u ∧ u.disp = s.disp ∧
      (s.disp = Display.clear → (t.reg 0xF#4 = 0x00#8 ∧
        (u.reg 0xF#4 = 0x01#8 ↔ ∃ k : Nat, k < n.toNat ∧ s.readByte (s.i.toNat + k) ≠ 0x00#8)))

/-! ### Random, keys, timers -/

/-- R180: random-and-mask writes the environment's byte AND `kk`; no bit that `kk` has clear is set, whatever the byte
(a free value, decision D20, log 1; opcode value D3, log 9). The next consultation takes another one. -/
def Obligations.RandomAndMaskWritesTheMaskedByte : Prop :=
  ∀ (x : Nibble) (kk : Byte) (s : State),
    Encodes (0xC#4 ++ x ++ kk) 21 (.randomAndMask x kk) ∧
    ∃ t, exec (.randomAndMask x kk) s = .next t ∧ t.reg x = Config.rnd s.draws &&& kk ∧
      (∀ k : Nat, kk.getLsbD k = false → (t.reg x).getLsbD k = false) ∧ (∀ r, r ≠ x → t.reg r = s.reg r) ∧
      t = { s with v := t.v, pc := s.pc + 2, run := .fetching, draws := s.draws + 1 }

/-- R181, R182: the key skips ask the environment about the key whose number is the whole byte `V[x]`, and skip when it
is down, or when it is up (a free answer, decision D19, log 2, log 20; opcode values D3, log 9). -/
def Obligations.KeySkipsAskAboutTheRegister : Prop :=
  ∀ (x : Nibble) (s : State),
    Encodes (0xE#4 ++ x ++ 0x9E#8) 23 (.skipIfKeyPressed x) ∧
    exec (.skipIfKeyPressed x) s = .next { s with
      run := .fetching, draws := s.draws + 1,
      pc := if Config.keyDown s.draws (s.reg x) = true then s.pc + 4 else s.pc + 2 } ∧
    Encodes (0xE#4 ++ x ++ 0xA1#8) 24 (.skipIfKeyNotPressed x) ∧
    exec (.skipIfKeyNotPressed x) s = .next { s with
      run := .fetching, draws := s.draws + 1,
      pc := if Config.keyDown s.draws (s.reg x) = false then s.pc + 4 else s.pc + 2 }

/-- R183, R199, R208: load-from-key-blocking always waits, changing only `RUN` and `KEYDST`; the key the host then
supplies goes to `V[x]`, modulo 256, and the engine goes on after the instruction (decision D18, log 18; opcode value
D3, log 9). That `KEYDST` is still `x` after the key has come, which the last clause says, is the model's own choice
(log 25): R36 gives it no meaning there. -/
def Obligations.LoadFromKeyBlockingWaitsForTheHost : Prop :=
  ∀ (x : Nibble) (s : State),
    Encodes (0xF#4 ++ x ++ 0x0A#8) 26 (.loadFromKeyBlocking x) ∧
    exec (.loadFromKeyBlocking x) s = .next { s with run := .haltedOnKey, keyDst := x } ∧
    ∀ value : Nat, ∃ u, hostCall (.supplyKey value) { s with run := .haltedOnKey, keyDst := x } = .next u ∧
      (u.reg x).toNat = value % 256 ∧ (∀ r, r ≠ x → u.reg r = s.reg r) ∧
      u = { s with v := u.v, pc := s.pc + 2, run := .fetching, keyDst := x }

/-- R184, R185, R186: the encodings of the three timer instructions, whose effects the two timer statements give, and
a tick between a write and a read: what is read back is one less, not below 0 (opcode values: decision D3, log 9;
R206 with D22, D32, log 19). -/
def Obligations.TimerWrittenThenTickedReadsOneLess : Prop :=
  ∀ (x y : Nibble) (s : State),
    Encodes (0xF#4 ++ y ++ 0x07#8) 25 (.loadFromDelayTimer y) ∧
    Encodes (0xF#4 ++ x ++ 0x15#8) 27 (.loadToDelayTimer x) ∧
    Encodes (0xF#4 ++ x ++ 0x18#8) 28 (.loadToSoundTimer x) ∧
    ∃ t u w, exec (.loadToDelayTimer x) s = .next t ∧ hostCall .tickTimers t = .next u ∧
      exec (.loadFromDelayTimer y) u = .next w ∧ (w.reg y).toNat = (s.reg x).toNat - 1

/-! ### What a step returns -/

/-- The result of a step from `RUN = Fetching` (R196, R197, R205), read off the state it leaves (log 29): a fetch fault is
`Fault(MemoryFault)`, an illegal word `Fault(DecodeFault)`, an instruction whose condition of R112 holds `Fault(kind)`;
otherwise load-from-key-blocking is `AwaitingKey` and every other instruction `Continue`. Halted states are in
`HaltedEnginesStayAsTheyAre` (decisions D7, D8, D11, D18, D29; log 3, log 12, log 17, log 18). -/
def Obligations.StepReturnsWhatItDid : Prop :=
  ∀ s : State, s.run = .fetching → ∃ t, step s = .next t ∧
    (fetch s = none → stepResult t = .fault (some .memoryFault)) ∧
    (∀ w e, fetch s = some w → decodeWord w = .error e → stepResult t = .fault (some .decodeFault)) ∧
    (∀ w i, fetch s = some w → decodeWord w = .ok i →
      (∀ k, faultOf i s = some k → stepResult t = .fault (some k)) ∧
      (faultOf i s = none → (∃ x, i = .loadFromKeyBlocking x) → stepResult t = .awaitingKey) ∧
      (faultOf i s = none → (∀ x, i ≠ .loadFromKeyBlocking x) → stepResult t = .continue_))

end
end

