-- ==== Sys2Proof/Laws/State.lean ====
section
/-! SUPPORT. What each update of the state does to each field: one lemma per field per update, so that no later proof
unfolds a record update. -/

namespace Sys2Proof.Machine

/-! ### setI -/

@[simp] theorem v_setI (s : State) (a : Word) : (s.setI a).v = s.v := rfl
@[simp] theorem i_setI (s : State) (a : Word) : (s.setI a).i = a := rfl
@[simp] theorem pc_setI (s : State) (a : Word) : (s.setI a).pc = s.pc := rfl
@[simp] theorem sp_setI (s : State) (a : Word) : (s.setI a).sp = s.sp := rfl
@[simp] theorem stk_setI (s : State) (a : Word) : (s.setI a).stk = s.stk := rfl
@[simp] theorem dt_setI (s : State) (a : Word) : (s.setI a).dt = s.dt := rfl
@[simp] theorem st_setI (s : State) (a : Word) : (s.setI a).st = s.st := rfl
@[simp] theorem mem_setI (s : State) (a : Word) : (s.setI a).mem = s.mem := rfl
@[simp] theorem disp_setI (s : State) (a : Word) : (s.setI a).disp = s.disp := rfl
@[simp] theorem run_setI (s : State) (a : Word) : (s.setI a).run = s.run := rfl
@[simp] theorem keyDst_setI (s : State) (a : Word) : (s.setI a).keyDst = s.keyDst := rfl
@[simp] theorem faultRec_setI (s : State) (a : Word) : (s.setI a).faultRec = s.faultRec := rfl
@[simp] theorem draws_setI (s : State) (a : Word) : (s.setI a).draws = s.draws := rfl

/-! ### setPc -/

@[simp] theorem v_setPc (s : State) (a : Word) : (s.setPc a).v = s.v := rfl
@[simp] theorem i_setPc (s : State) (a : Word) : (s.setPc a).i = s.i := rfl
@[simp] theorem pc_setPc (s : State) (a : Word) : (s.setPc a).pc = a := rfl
@[simp] theorem sp_setPc (s : State) (a : Word) : (s.setPc a).sp = s.sp := rfl
@[simp] theorem stk_setPc (s : State) (a : Word) : (s.setPc a).stk = s.stk := rfl
@[simp] theorem dt_setPc (s : State) (a : Word) : (s.setPc a).dt = s.dt := rfl
@[simp] theorem st_setPc (s : State) (a : Word) : (s.setPc a).st = s.st := rfl
@[simp] theorem mem_setPc (s : State) (a : Word) : (s.setPc a).mem = s.mem := rfl
@[simp] theorem disp_setPc (s : State) (a : Word) : (s.setPc a).disp = s.disp := rfl
@[simp] theorem run_setPc (s : State) (a : Word) : (s.setPc a).run = s.run := rfl
@[simp] theorem keyDst_setPc (s : State) (a : Word) : (s.setPc a).keyDst = s.keyDst := rfl
@[simp] theorem faultRec_setPc (s : State) (a : Word) : (s.setPc a).faultRec = s.faultRec := rfl
@[simp] theorem draws_setPc (s : State) (a : Word) : (s.setPc a).draws = s.draws := rfl

/-! ### setDt -/

@[simp] theorem v_setDt (s : State) (b : Byte) : (s.setDt b).v = s.v := rfl
@[simp] theorem i_setDt (s : State) (b : Byte) : (s.setDt b).i = s.i := rfl
@[simp] theorem pc_setDt (s : State) (b : Byte) : (s.setDt b).pc = s.pc := rfl
@[simp] theorem sp_setDt (s : State) (b : Byte) : (s.setDt b).sp = s.sp := rfl
@[simp] theorem stk_setDt (s : State) (b : Byte) : (s.setDt b).stk = s.stk := rfl
@[simp] theorem dt_setDt (s : State) (b : Byte) : (s.setDt b).dt = b := rfl
@[simp] theorem st_setDt (s : State) (b : Byte) : (s.setDt b).st = s.st := rfl
@[simp] theorem mem_setDt (s : State) (b : Byte) : (s.setDt b).mem = s.mem := rfl
@[simp] theorem disp_setDt (s : State) (b : Byte) : (s.setDt b).disp = s.disp := rfl
@[simp] theorem run_setDt (s : State) (b : Byte) : (s.setDt b).run = s.run := rfl
@[simp] theorem keyDst_setDt (s : State) (b : Byte) : (s.setDt b).keyDst = s.keyDst := rfl
@[simp] theorem faultRec_setDt (s : State) (b : Byte) : (s.setDt b).faultRec = s.faultRec := rfl
@[simp] theorem draws_setDt (s : State) (b : Byte) : (s.setDt b).draws = s.draws := rfl

/-! ### setSt -/

@[simp] theorem v_setSt (s : State) (b : Byte) : (s.setSt b).v = s.v := rfl
@[simp] theorem i_setSt (s : State) (b : Byte) : (s.setSt b).i = s.i := rfl
@[simp] theorem pc_setSt (s : State) (b : Byte) : (s.setSt b).pc = s.pc := rfl
@[simp] theorem sp_setSt (s : State) (b : Byte) : (s.setSt b).sp = s.sp := rfl
@[simp] theorem stk_setSt (s : State) (b : Byte) : (s.setSt b).stk = s.stk := rfl
@[simp] theorem dt_setSt (s : State) (b : Byte) : (s.setSt b).dt = s.dt := rfl
@[simp] theorem st_setSt (s : State) (b : Byte) : (s.setSt b).st = b := rfl
@[simp] theorem mem_setSt (s : State) (b : Byte) : (s.setSt b).mem = s.mem := rfl
@[simp] theorem disp_setSt (s : State) (b : Byte) : (s.setSt b).disp = s.disp := rfl
@[simp] theorem run_setSt (s : State) (b : Byte) : (s.setSt b).run = s.run := rfl
@[simp] theorem keyDst_setSt (s : State) (b : Byte) : (s.setSt b).keyDst = s.keyDst := rfl
@[simp] theorem faultRec_setSt (s : State) (b : Byte) : (s.setSt b).faultRec = s.faultRec := rfl
@[simp] theorem draws_setSt (s : State) (b : Byte) : (s.setSt b).draws = s.draws := rfl

/-! ### setMem -/

@[simp] theorem v_setMem (s : State) (m : Memory) : (s.setMem m).v = s.v := rfl
@[simp] theorem i_setMem (s : State) (m : Memory) : (s.setMem m).i = s.i := rfl
@[simp] theorem pc_setMem (s : State) (m : Memory) : (s.setMem m).pc = s.pc := rfl
@[simp] theorem sp_setMem (s : State) (m : Memory) : (s.setMem m).sp = s.sp := rfl
@[simp] theorem stk_setMem (s : State) (m : Memory) : (s.setMem m).stk = s.stk := rfl
@[simp] theorem dt_setMem (s : State) (m : Memory) : (s.setMem m).dt = s.dt := rfl
@[simp] theorem st_setMem (s : State) (m : Memory) : (s.setMem m).st = s.st := rfl
@[simp] theorem mem_setMem (s : State) (m : Memory) : (s.setMem m).mem = m := rfl
@[simp] theorem disp_setMem (s : State) (m : Memory) : (s.setMem m).disp = s.disp := rfl
@[simp] theorem run_setMem (s : State) (m : Memory) : (s.setMem m).run = s.run := rfl
@[simp] theorem keyDst_setMem (s : State) (m : Memory) : (s.setMem m).keyDst = s.keyDst := rfl
@[simp] theorem faultRec_setMem (s : State) (m : Memory) : (s.setMem m).faultRec = s.faultRec := rfl
@[simp] theorem draws_setMem (s : State) (m : Memory) : (s.setMem m).draws = s.draws := rfl

/-! ### setDisp -/

@[simp] theorem v_setDisp (s : State) (d : Display) : (s.setDisp d).v = s.v := rfl
@[simp] theorem i_setDisp (s : State) (d : Display) : (s.setDisp d).i = s.i := rfl
@[simp] theorem pc_setDisp (s : State) (d : Display) : (s.setDisp d).pc = s.pc := rfl
@[simp] theorem sp_setDisp (s : State) (d : Display) : (s.setDisp d).sp = s.sp := rfl
@[simp] theorem stk_setDisp (s : State) (d : Display) : (s.setDisp d).stk = s.stk := rfl
@[simp] theorem dt_setDisp (s : State) (d : Display) : (s.setDisp d).dt = s.dt := rfl
@[simp] theorem st_setDisp (s : State) (d : Display) : (s.setDisp d).st = s.st := rfl
@[simp] theorem mem_setDisp (s : State) (d : Display) : (s.setDisp d).mem = s.mem := rfl
@[simp] theorem disp_setDisp (s : State) (d : Display) : (s.setDisp d).disp = d := rfl
@[simp] theorem run_setDisp (s : State) (d : Display) : (s.setDisp d).run = s.run := rfl
@[simp] theorem keyDst_setDisp (s : State) (d : Display) : (s.setDisp d).keyDst = s.keyDst := rfl
@[simp] theorem faultRec_setDisp (s : State) (d : Display) : (s.setDisp d).faultRec = s.faultRec := rfl
@[simp] theorem draws_setDisp (s : State) (d : Display) : (s.setDisp d).draws = s.draws := rfl

/-! ### setRun -/

@[simp] theorem v_setRun (s : State) (r : RunState) : (s.setRun r).v = s.v := rfl
@[simp] theorem i_setRun (s : State) (r : RunState) : (s.setRun r).i = s.i := rfl
@[simp] theorem pc_setRun (s : State) (r : RunState) : (s.setRun r).pc = s.pc := rfl
@[simp] theorem sp_setRun (s : State) (r : RunState) : (s.setRun r).sp = s.sp := rfl
@[simp] theorem stk_setRun (s : State) (r : RunState) : (s.setRun r).stk = s.stk := rfl
@[simp] theorem dt_setRun (s : State) (r : RunState) : (s.setRun r).dt = s.dt := rfl
@[simp] theorem st_setRun (s : State) (r : RunState) : (s.setRun r).st = s.st := rfl
@[simp] theorem mem_setRun (s : State) (r : RunState) : (s.setRun r).mem = s.mem := rfl
@[simp] theorem disp_setRun (s : State) (r : RunState) : (s.setRun r).disp = s.disp := rfl
@[simp] theorem run_setRun (s : State) (r : RunState) : (s.setRun r).run = r := rfl
@[simp] theorem keyDst_setRun (s : State) (r : RunState) : (s.setRun r).keyDst = s.keyDst := rfl
@[simp] theorem faultRec_setRun (s : State) (r : RunState) : (s.setRun r).faultRec = s.faultRec := rfl
@[simp] theorem draws_setRun (s : State) (r : RunState) : (s.setRun r).draws = s.draws := rfl

/-! ### nextDraw -/

@[simp] theorem v_nextDraw (s : State) : s.nextDraw.v = s.v := rfl
@[simp] theorem i_nextDraw (s : State) : s.nextDraw.i = s.i := rfl
@[simp] theorem pc_nextDraw (s : State) : s.nextDraw.pc = s.pc := rfl
@[simp] theorem sp_nextDraw (s : State) : s.nextDraw.sp = s.sp := rfl
@[simp] theorem stk_nextDraw (s : State) : s.nextDraw.stk = s.stk := rfl
@[simp] theorem dt_nextDraw (s : State) : s.nextDraw.dt = s.dt := rfl
@[simp] theorem st_nextDraw (s : State) : s.nextDraw.st = s.st := rfl
@[simp] theorem mem_nextDraw (s : State) : s.nextDraw.mem = s.mem := rfl
@[simp] theorem disp_nextDraw (s : State) : s.nextDraw.disp = s.disp := rfl
@[simp] theorem run_nextDraw (s : State) : s.nextDraw.run = s.run := rfl
@[simp] theorem keyDst_nextDraw (s : State) : s.nextDraw.keyDst = s.keyDst := rfl
@[simp] theorem faultRec_nextDraw (s : State) : s.nextDraw.faultRec = s.faultRec := rfl
@[simp] theorem draws_nextDraw (s : State) : s.nextDraw.draws = s.draws + 1 := rfl

/-! ### setReg -/

@[simp] theorem i_setReg (s : State) (r : Nibble) (b : Byte) : (s.setReg r b).i = s.i := rfl
@[simp] theorem pc_setReg (s : State) (r : Nibble) (b : Byte) : (s.setReg r b).pc = s.pc := rfl
@[simp] theorem sp_setReg (s : State) (r : Nibble) (b : Byte) : (s.setReg r b).sp = s.sp := rfl
@[simp] theorem stk_setReg (s : State) (r : Nibble) (b : Byte) : (s.setReg r b).stk = s.stk := rfl
@[simp] theorem dt_setReg (s : State) (r : Nibble) (b : Byte) : (s.setReg r b).dt = s.dt := rfl
@[simp] theorem st_setReg (s : State) (r : Nibble) (b : Byte) : (s.setReg r b).st = s.st := rfl
@[simp] theorem mem_setReg (s : State) (r : Nibble) (b : Byte) : (s.setReg r b).mem = s.mem := rfl
@[simp] theorem disp_setReg (s : State) (r : Nibble) (b : Byte) : (s.setReg r b).disp = s.disp := rfl
@[simp] theorem run_setReg (s : State) (r : Nibble) (b : Byte) : (s.setReg r b).run = s.run := rfl
@[simp] theorem keyDst_setReg (s : State) (r : Nibble) (b : Byte) : (s.setReg r b).keyDst = s.keyDst := rfl
@[simp] theorem faultRec_setReg (s : State) (r : Nibble) (b : Byte) : (s.setReg r b).faultRec = s.faultRec := rfl
@[simp] theorem draws_setReg (s : State) (r : Nibble) (b : Byte) : (s.setReg r b).draws = s.draws := rfl

/-! ### storeBytes -/

@[simp] theorem v_storeBytes (s : State) (a : Nat) (bs : List Byte) : (s.storeBytes a bs).v = s.v := rfl
@[simp] theorem i_storeBytes (s : State) (a : Nat) (bs : List Byte) : (s.storeBytes a bs).i = s.i := rfl
@[simp] theorem pc_storeBytes (s : State) (a : Nat) (bs : List Byte) : (s.storeBytes a bs).pc = s.pc := rfl
@[simp] theorem sp_storeBytes (s : State) (a : Nat) (bs : List Byte) : (s.storeBytes a bs).sp = s.sp := rfl
@[simp] theorem stk_storeBytes (s : State) (a : Nat) (bs : List Byte) : (s.storeBytes a bs).stk = s.stk := rfl
@[simp] theorem dt_storeBytes (s : State) (a : Nat) (bs : List Byte) : (s.storeBytes a bs).dt = s.dt := rfl
@[simp] theorem st_storeBytes (s : State) (a : Nat) (bs : List Byte) : (s.storeBytes a bs).st = s.st := rfl
@[simp] theorem mem_storeBytes (s : State) (a : Nat) (bs : List Byte) : (s.storeBytes a bs).mem = Memory.writeBytes s.mem a bs := rfl
@[simp] theorem disp_storeBytes (s : State) (a : Nat) (bs : List Byte) : (s.storeBytes a bs).disp = s.disp := rfl
@[simp] theorem run_storeBytes (s : State) (a : Nat) (bs : List Byte) : (s.storeBytes a bs).run = s.run := rfl
@[simp] theorem keyDst_storeBytes (s : State) (a : Nat) (bs : List Byte) : (s.storeBytes a bs).keyDst = s.keyDst := rfl
@[simp] theorem faultRec_storeBytes (s : State) (a : Nat) (bs : List Byte) : (s.storeBytes a bs).faultRec = s.faultRec := rfl
@[simp] theorem draws_storeBytes (s : State) (a : Nat) (bs : List Byte) : (s.storeBytes a bs).draws = s.draws := rfl

/-! ### setFlag -/

@[simp] theorem i_setFlag (s : State) (b : Byte) : (s.setFlag b).i = s.i := rfl
@[simp] theorem pc_setFlag (s : State) (b : Byte) : (s.setFlag b).pc = s.pc := rfl
@[simp] theorem sp_setFlag (s : State) (b : Byte) : (s.setFlag b).sp = s.sp := rfl
@[simp] theorem stk_setFlag (s : State) (b : Byte) : (s.setFlag b).stk = s.stk := rfl
@[simp] theorem dt_setFlag (s : State) (b : Byte) : (s.setFlag b).dt = s.dt := rfl
@[simp] theorem st_setFlag (s : State) (b : Byte) : (s.setFlag b).st = s.st := rfl
@[simp] theorem mem_setFlag (s : State) (b : Byte) : (s.setFlag b).mem = s.mem := rfl
@[simp] theorem disp_setFlag (s : State) (b : Byte) : (s.setFlag b).disp = s.disp := rfl
@[simp] theorem run_setFlag (s : State) (b : Byte) : (s.setFlag b).run = s.run := rfl
@[simp] theorem keyDst_setFlag (s : State) (b : Byte) : (s.setFlag b).keyDst = s.keyDst := rfl
@[simp] theorem faultRec_setFlag (s : State) (b : Byte) : (s.setFlag b).faultRec = s.faultRec := rfl
@[simp] theorem draws_setFlag (s : State) (b : Byte) : (s.setFlag b).draws = s.draws := rfl

/-! ### setRegAndFlag -/

@[simp] theorem i_setRegAndFlag (s : State) (x : Nibble) (b c : Byte) : (s.setRegAndFlag x b c).i = s.i := rfl
@[simp] theorem pc_setRegAndFlag (s : State) (x : Nibble) (b c : Byte) : (s.setRegAndFlag x b c).pc = s.pc := rfl
@[simp] theorem sp_setRegAndFlag (s : State) (x : Nibble) (b c : Byte) : (s.setRegAndFlag x b c).sp = s.sp := rfl
@[simp] theorem stk_setRegAndFlag (s : State) (x : Nibble) (b c : Byte) : (s.setRegAndFlag x b c).stk = s.stk := rfl
@[simp] theorem dt_setRegAndFlag (s : State) (x : Nibble) (b c : Byte) : (s.setRegAndFlag x b c).dt = s.dt := rfl
@[simp] theorem st_setRegAndFlag (s : State) (x : Nibble) (b c : Byte) : (s.setRegAndFlag x b c).st = s.st := rfl
@[simp] theorem mem_setRegAndFlag (s : State) (x : Nibble) (b c : Byte) : (s.setRegAndFlag x b c).mem = s.mem := rfl
@[simp] theorem disp_setRegAndFlag (s : State) (x : Nibble) (b c : Byte) : (s.setRegAndFlag x b c).disp = s.disp := rfl
@[simp] theorem run_setRegAndFlag (s : State) (x : Nibble) (b c : Byte) : (s.setRegAndFlag x b c).run = s.run := rfl
@[simp] theorem keyDst_setRegAndFlag (s : State) (x : Nibble) (b c : Byte) : (s.setRegAndFlag x b c).keyDst = s.keyDst := rfl
@[simp] theorem faultRec_setRegAndFlag (s : State) (x : Nibble) (b c : Byte) : (s.setRegAndFlag x b c).faultRec = s.faultRec := rfl
@[simp] theorem draws_setRegAndFlag (s : State) (x : Nibble) (b c : Byte) : (s.setRegAndFlag x b c).draws = s.draws := rfl

/-! ### loadBlock -/

@[simp] theorem i_loadBlock (s : State) (x : Nibble) : (s.loadBlock x).i = s.i := rfl
@[simp] theorem pc_loadBlock (s : State) (x : Nibble) : (s.loadBlock x).pc = s.pc := rfl
@[simp] theorem sp_loadBlock (s : State) (x : Nibble) : (s.loadBlock x).sp = s.sp := rfl
@[simp] theorem stk_loadBlock (s : State) (x : Nibble) : (s.loadBlock x).stk = s.stk := rfl
@[simp] theorem dt_loadBlock (s : State) (x : Nibble) : (s.loadBlock x).dt = s.dt := rfl
@[simp] theorem st_loadBlock (s : State) (x : Nibble) : (s.loadBlock x).st = s.st := rfl
@[simp] theorem mem_loadBlock (s : State) (x : Nibble) : (s.loadBlock x).mem = s.mem := rfl
@[simp] theorem disp_loadBlock (s : State) (x : Nibble) : (s.loadBlock x).disp = s.disp := rfl
@[simp] theorem run_loadBlock (s : State) (x : Nibble) : (s.loadBlock x).run = s.run := rfl
@[simp] theorem keyDst_loadBlock (s : State) (x : Nibble) : (s.loadBlock x).keyDst = s.keyDst := rfl
@[simp] theorem faultRec_loadBlock (s : State) (x : Nibble) : (s.loadBlock x).faultRec = s.faultRec := rfl
@[simp] theorem draws_loadBlock (s : State) (x : Nibble) : (s.loadBlock x).draws = s.draws := rfl

/-! ### halt -/

@[simp] theorem v_halt (s : State) (k : FaultKind) (o : Option Word) : (s.halt k o).v = s.v := rfl
@[simp] theorem i_halt (s : State) (k : FaultKind) (o : Option Word) : (s.halt k o).i = s.i := rfl
@[simp] theorem pc_halt (s : State) (k : FaultKind) (o : Option Word) : (s.halt k o).pc = s.pc := rfl
@[simp] theorem sp_halt (s : State) (k : FaultKind) (o : Option Word) : (s.halt k o).sp = s.sp := rfl
@[simp] theorem stk_halt (s : State) (k : FaultKind) (o : Option Word) : (s.halt k o).stk = s.stk := rfl
@[simp] theorem dt_halt (s : State) (k : FaultKind) (o : Option Word) : (s.halt k o).dt = s.dt := rfl
@[simp] theorem st_halt (s : State) (k : FaultKind) (o : Option Word) : (s.halt k o).st = s.st := rfl
@[simp] theorem mem_halt (s : State) (k : FaultKind) (o : Option Word) : (s.halt k o).mem = s.mem := rfl
@[simp] theorem disp_halt (s : State) (k : FaultKind) (o : Option Word) : (s.halt k o).disp = s.disp := rfl
@[simp] theorem run_halt (s : State) (k : FaultKind) (o : Option Word) : (s.halt k o).run = .haltedOnFault := rfl
@[simp] theorem keyDst_halt (s : State) (k : FaultKind) (o : Option Word) : (s.halt k o).keyDst = s.keyDst := rfl
@[simp] theorem faultRec_halt (s : State) (k : FaultKind) (o : Option Word) : (s.halt k o).faultRec = some ⟨k, s.pc, o⟩ := rfl
@[simp] theorem draws_halt (s : State) (k : FaultKind) (o : Option Word) : (s.halt k o).draws = s.draws := rfl

/-! ### awaitKey -/

@[simp] theorem v_awaitKey (s : State) (x : Nibble) : (s.awaitKey x).v = s.v := rfl
@[simp] theorem i_awaitKey (s : State) (x : Nibble) : (s.awaitKey x).i = s.i := rfl
@[simp] theorem pc_awaitKey (s : State) (x : Nibble) : (s.awaitKey x).pc = s.pc := rfl
@[simp] theorem sp_awaitKey (s : State) (x : Nibble) : (s.awaitKey x).sp = s.sp := rfl
@[simp] theorem stk_awaitKey (s : State) (x : Nibble) : (s.awaitKey x).stk = s.stk := rfl
@[simp] theorem dt_awaitKey (s : State) (x : Nibble) : (s.awaitKey x).dt = s.dt := rfl
@[simp] theorem st_awaitKey (s : State) (x : Nibble) : (s.awaitKey x).st = s.st := rfl
@[simp] theorem mem_awaitKey (s : State) (x : Nibble) : (s.awaitKey x).mem = s.mem := rfl
@[simp] theorem disp_awaitKey (s : State) (x : Nibble) : (s.awaitKey x).disp = s.disp := rfl
@[simp] theorem run_awaitKey (s : State) (x : Nibble) : (s.awaitKey x).run = .haltedOnKey := rfl
@[simp] theorem keyDst_awaitKey (s : State) (x : Nibble) : (s.awaitKey x).keyDst = x := rfl
@[simp] theorem faultRec_awaitKey (s : State) (x : Nibble) : (s.awaitKey x).faultRec = s.faultRec := rfl
@[simp] theorem draws_awaitKey (s : State) (x : Nibble) : (s.awaitKey x).draws = s.draws := rfl

/-! ### tickTimers -/

@[simp] theorem v_tickTimers (s : State) : s.tickTimers.v = s.v := rfl
@[simp] theorem i_tickTimers (s : State) : s.tickTimers.i = s.i := rfl
@[simp] theorem pc_tickTimers (s : State) : s.tickTimers.pc = s.pc := rfl
@[simp] theorem sp_tickTimers (s : State) : s.tickTimers.sp = s.sp := rfl
@[simp] theorem stk_tickTimers (s : State) : s.tickTimers.stk = s.stk := rfl
@[simp] theorem dt_tickTimers (s : State) : s.tickTimers.dt = countDown s.dt := rfl
@[simp] theorem st_tickTimers (s : State) : s.tickTimers.st = countDown s.st := rfl
@[simp] theorem mem_tickTimers (s : State) : s.tickTimers.mem = s.mem := rfl
@[simp] theorem disp_tickTimers (s : State) : s.tickTimers.disp = s.disp := rfl
@[simp] theorem run_tickTimers (s : State) : s.tickTimers.run = s.run := rfl
@[simp] theorem keyDst_tickTimers (s : State) : s.tickTimers.keyDst = s.keyDst := rfl
@[simp] theorem faultRec_tickTimers (s : State) : s.tickTimers.faultRec = s.faultRec := rfl
@[simp] theorem draws_tickTimers (s : State) : s.tickTimers.draws = s.draws := rfl

/-! ### commit -/

@[simp] theorem v_commit (s w : State) (a : PcAction) : (s.commit w a).v = w.v := rfl
@[simp] theorem i_commit (s w : State) (a : PcAction) : (s.commit w a).i = w.i := rfl
@[simp] theorem pc_commit (s w : State) (a : PcAction) : (s.commit w a).pc = pcPolicy a s.pc := rfl
@[simp] theorem sp_commit (s w : State) (a : PcAction) : (s.commit w a).sp = w.sp := rfl
@[simp] theorem stk_commit (s w : State) (a : PcAction) : (s.commit w a).stk = w.stk := rfl
@[simp] theorem dt_commit (s w : State) (a : PcAction) : (s.commit w a).dt = w.dt := rfl
@[simp] theorem st_commit (s w : State) (a : PcAction) : (s.commit w a).st = w.st := rfl
@[simp] theorem mem_commit (s w : State) (a : PcAction) : (s.commit w a).mem = w.mem := rfl
@[simp] theorem disp_commit (s w : State) (a : PcAction) : (s.commit w a).disp = w.disp := rfl
@[simp] theorem run_commit (s w : State) (a : PcAction) : (s.commit w a).run = .fetching := rfl
@[simp] theorem keyDst_commit (s w : State) (a : PcAction) : (s.commit w a).keyDst = w.keyDst := rfl
@[simp] theorem faultRec_commit (s w : State) (a : PcAction) : (s.commit w a).faultRec = w.faultRec := rfl
@[simp] theorem draws_commit (s w : State) (a : PcAction) : (s.commit w a).draws = w.draws := rfl

/-! ### hostReset -/

@[simp] theorem v_hostReset (s : State) : s.hostReset.v = State.reset.v := rfl
@[simp] theorem i_hostReset (s : State) : s.hostReset.i = State.reset.i := rfl
@[simp] theorem pc_hostReset (s : State) : s.hostReset.pc = State.reset.pc := rfl
@[simp] theorem sp_hostReset (s : State) : s.hostReset.sp = State.reset.sp := rfl
@[simp] theorem stk_hostReset (s : State) : s.hostReset.stk = State.reset.stk := rfl
@[simp] theorem dt_hostReset (s : State) : s.hostReset.dt = State.reset.dt := rfl
@[simp] theorem st_hostReset (s : State) : s.hostReset.st = State.reset.st := rfl
@[simp] theorem mem_hostReset (s : State) : s.hostReset.mem = State.reset.mem := rfl
@[simp] theorem disp_hostReset (s : State) : s.hostReset.disp = State.reset.disp := rfl
@[simp] theorem run_hostReset (s : State) : s.hostReset.run = State.reset.run := rfl
@[simp] theorem keyDst_hostReset (s : State) : s.hostReset.keyDst = State.reset.keyDst := rfl
@[simp] theorem faultRec_hostReset (s : State) : s.hostReset.faultRec = State.reset.faultRec := rfl
@[simp] theorem draws_hostReset (s : State) : s.hostReset.draws = s.draws := rfl

end Sys2Proof.Machine
end

