-- ==== Sys2Proof/Laws/Decode.lean ====
section
/-! SUPPORT. The fields of a word written as a pattern of the opcode map, and the fields as numbers. -/

namespace Sys2Proof

theorem toNat_fieldHigh (w : Word) : (fieldHigh w).toNat = w.toNat / 4096 := by
  have := w.isLt
  simp only [fieldHigh, BitVec.extractLsb'_toNat, Nat.shiftRight_eq_div_pow]; omega

theorem toNat_fieldX (w : Word) : (fieldX w).toNat = w.toNat / 256 % 16 := by
  simp [fieldX, BitVec.extractLsb'_toNat, Nat.shiftRight_eq_div_pow]

theorem toNat_fieldY (w : Word) : (fieldY w).toNat = w.toNat / 16 % 16 := by
  simp [fieldY, BitVec.extractLsb'_toNat, Nat.shiftRight_eq_div_pow]

theorem toNat_fieldN (w : Word) : (fieldN w).toNat = w.toNat % 16 := by
  simp [fieldN, BitVec.extractLsb'_toNat]

theorem toNat_fieldKk (w : Word) : (fieldKk w).toNat = w.toNat % 256 := by
  simp [fieldKk, BitVec.extractLsb'_toNat]

theorem toNat_fieldNnn (w : Word) : (fieldNnn w).toNat = w.toNat % 4096 := by
  simp [fieldNnn, BitVec.extractLsb'_toNat]

/-- The value of two bit strings side by side. -/
theorem toNat_append_add {n m : Nat} (a : BitVec n) (b : BitVec m) : (a ++ b).toNat = a.toNat * 2 ^ m + b.toNat := by
  rw [BitVec.toNat_append, ← Nat.shiftLeft_add_eq_or_of_lt b.isLt, Nat.shiftLeft_eq]

/-! ### The pattern `hnnn` -/

@[simp] theorem fieldHigh_hnnn (h : Nibble) (a : Addr) : fieldHigh (h ++ a) = h := by
  have := a.isLt
  apply BitVec.eq_of_toNat_eq
  rw [toNat_fieldHigh]; rw [toNat_append_add]; omega

@[simp] theorem fieldNnn_hnnn (h : Nibble) (a : Addr) : fieldNnn (h ++ a) = a := by
  have := a.isLt
  apply BitVec.eq_of_toNat_eq
  rw [toNat_fieldNnn]; rw [toNat_append_add]; omega

/-! ### The pattern `hxkk` -/

@[simp] theorem fieldHigh_hxkk (h x : Nibble) (k : Byte) : fieldHigh (h ++ x ++ k) = h := by
  have := k.isLt; have := x.isLt
  apply BitVec.eq_of_toNat_eq
  rw [toNat_fieldHigh]; rw [toNat_append_add, toNat_append_add]; omega

@[simp] theorem fieldX_hxkk (h x : Nibble) (k : Byte) : fieldX (h ++ x ++ k) = x := by
  have := k.isLt; have := x.isLt
  apply BitVec.eq_of_toNat_eq
  rw [toNat_fieldX]; rw [toNat_append_add, toNat_append_add]; omega

@[simp] theorem fieldKk_hxkk (h x : Nibble) (k : Byte) : fieldKk (h ++ x ++ k) = k := by
  have := k.isLt
  apply BitVec.eq_of_toNat_eq
  rw [toNat_fieldKk]; rw [toNat_append_add, toNat_append_add]; omega

/-! ### The pattern `hxyn` -/

@[simp] theorem fieldHigh_hxyn (h x y n : Nibble) : fieldHigh (h ++ x ++ y ++ n) = h := by
  have := n.isLt; have := x.isLt; have := y.isLt
  apply BitVec.eq_of_toNat_eq
  rw [toNat_fieldHigh]; rw [toNat_append_add, toNat_append_add, toNat_append_add]; omega

@[simp] theorem fieldX_hxyn (h x y n : Nibble) : fieldX (h ++ x ++ y ++ n) = x := by
  have := n.isLt; have := x.isLt; have := y.isLt
  apply BitVec.eq_of_toNat_eq
  rw [toNat_fieldX]; rw [toNat_append_add, toNat_append_add, toNat_append_add]; omega

@[simp] theorem fieldY_hxyn (h x y n : Nibble) : fieldY (h ++ x ++ y ++ n) = y := by
  have := n.isLt; have := y.isLt
  apply BitVec.eq_of_toNat_eq
  rw [toNat_fieldY]; rw [toNat_append_add, toNat_append_add, toNat_append_add]; omega

@[simp] theorem fieldN_hxyn (h x y n : Nibble) : fieldN (h ++ x ++ y ++ n) = n := by
  have := n.isLt
  apply BitVec.eq_of_toNat_eq
  rw [toNat_fieldN]; rw [toNat_append_add, toNat_append_add, toNat_append_add]; omega

/-! ### A word from its fields -/

theorem word_of_hnnn (w : Word) : fieldHigh w ++ fieldNnn w = w := by
  apply BitVec.eq_of_toNat_eq
  rw [toNat_append_add, toNat_fieldHigh, toNat_fieldNnn]; omega

theorem word_of_hxkk (w : Word) : fieldHigh w ++ fieldX w ++ fieldKk w = w := by
  have := w.isLt
  apply BitVec.eq_of_toNat_eq
  rw [toNat_append_add, toNat_append_add, toNat_fieldHigh, toNat_fieldX, toNat_fieldKk]; omega

theorem word_of_hxyn (w : Word) : fieldHigh w ++ fieldX w ++ fieldY w ++ fieldN w = w := by
  have := w.isLt
  apply BitVec.eq_of_toNat_eq
  rw [toNat_append_add, toNat_append_add, toNat_append_add, toNat_fieldHigh, toNat_fieldX, toNat_fieldY, toNat_fieldN]
  omega

end Sys2Proof
end

