-- ==== Sys2Proof/Laws/Display.lean ====
section
/-! SUPPORT. Reading a pixel after a write, and displays equal when their pixels read equal. -/

namespace Sys2Proof.Machine

theorem pixel_setPixel (d : Display) (r c r' c' : Nat) (p : Bool) :
    (d.setPixel r c p).pixel r' c' = if r' % 32 = r % 32 ∧ c' % 64 = c % 64 then p else d.pixel r' c' := by
  simp only [Display.pixel, Display.setPixel]
  by_cases hr : r % 32 = r' % 32
  · by_cases hc : c % 64 = c' % 64
    · simp [hr, hc]
    · have : ¬ (c' % 64 = c % 64) := fun e => hc e.symm
      simp [hr, hc, this]
  · have : ¬ (r' % 32 = r % 32) := fun e => hr e.symm
    simp [hr, this]

/-- Indices are wrapped before a read (R33). -/
theorem pixel_mod (d : Display) (r c : Nat) : d.pixel (r % 32) (c % 64) = d.pixel r c := by
  simp [Display.pixel]

@[simp] theorem pixel_clear (r c : Nat) : Display.clear.pixel r c = false := by
  simp [Display.pixel, Display.clear]

/-- Displays whose 2048 pixels read alike are equal. -/
theorem display_ext {d e : Display} (h : ∀ r c, r < 32 → c < 64 → d.pixel r c = e.pixel r c) : d = e := by
  apply Vector.ext
  intro r hr
  apply Vector.ext
  intro c hc
  have := h r c hr hc
  simpa [Display.pixel, Nat.mod_eq_of_lt hr, Nat.mod_eq_of_lt hc] using this

end Sys2Proof.Machine
end

