-- ==== Sys2Proof/Laws/Memory.lean ====
section
/-! SUPPORT. The basic laws of memory: a read after a write, and the canonical form that every operation keeps. -/

namespace Sys2Proof.Machine

theorem read_write_ne {m : Memory} {a q : Nat} (b : Byte) (h : q ≠ a) :
    Memory.read (Memory.write m a b) q = Memory.read m q := by
  induction m with
  | nil => simp only [Memory.write]; split <;> simp [Memory.read, Ne.symm h]
  | cons c m ih =>
    obtain ⟨k, c⟩ := c
    simp only [Memory.write]
    split
    · split <;> simp [Memory.read, Ne.symm h]
    · split
      · next e => subst e; split <;> simp [Memory.read, Ne.symm h]
      · simp [Memory.read, ih]

/-- Below the first listed address a memory reads its reset bytes. -/
theorem read_of_wfFrom {m : Memory} {lo a : Nat} (h : Memory.wfFrom lo m = true) (ha : a < lo) :
    Memory.read m a = resetByte a := by
  induction m generalizing lo with
  | nil => rfl
  | cons c m ih =>
    obtain ⟨k, c⟩ := c
    simp only [Memory.wfFrom, Bool.and_eq_true, decide_eq_true_eq] at h
    simp only [Memory.read]
    rw [if_neg (by omega), ih h.2 (by omega)]

theorem read_write_same {m : Memory} {lo a : Nat} {b : Byte} (h : Memory.wfFrom lo m = true) :
    Memory.read (Memory.write m a b) a = b := by
  induction m generalizing lo with
  | nil => simp only [Memory.write]; split <;> simp_all [Memory.read]
  | cons c m ih =>
    obtain ⟨k, c⟩ := c
    simp only [Memory.wfFrom, Bool.and_eq_true, decide_eq_true_eq] at h
    have hm : Memory.read m k = resetByte k := read_of_wfFrom h.2 (by omega)
    simp only [Memory.write]
    split
    · split
      · next e =>
        simp only [Memory.read]
        rw [if_neg (by omega), read_of_wfFrom h.2 (by omega), e]
      · simp [Memory.read]
    · split
      · next e => subst e; split <;> simp_all [Memory.read]
      · next e => simp [Memory.read, Ne.symm e, ih h.2]

theorem read_write {m : Memory} (h : Memory.wf m = true) (a q : Nat) (b : Byte) :
    Memory.read (Memory.write m a b) q = if q = a then b else Memory.read m q := by
  split
  · next e => rw [e, read_write_same h]
  · next e => rw [read_write_ne b e]

theorem wfFrom_mono {m : Memory} {lo lo' : Nat} (h : Memory.wfFrom lo m = true) (hl : lo' ≤ lo) :
    Memory.wfFrom lo' m = true := by
  cases m with
  | nil => rfl
  | cons c m =>
    obtain ⟨k, c⟩ := c
    simp only [Memory.wfFrom, Bool.and_eq_true, decide_eq_true_eq] at h ⊢
    exact ⟨⟨⟨by omega, h.1.1.2⟩, h.1.2⟩, h.2⟩

theorem wfFrom_write {m : Memory} {lo a : Nat} {b : Byte} (h : Memory.wfFrom lo m = true) (hlo : lo ≤ a)
    (ha : a < memLimit) : Memory.wfFrom lo (Memory.write m a b) = true := by
  induction m generalizing lo with
  | nil => simp only [Memory.write]; split <;> simp_all [Memory.wfFrom]
  | cons c m ih =>
    obtain ⟨k, c⟩ := c
    have h' := h
    simp only [Memory.wfFrom, Bool.and_eq_true, decide_eq_true_eq, bne_iff_ne, ne_eq] at h'
    simp only [Memory.write]
    split
    · split
      · exact h
      · simp only [Memory.wfFrom, Bool.and_eq_true, decide_eq_true_eq, bne_iff_ne, ne_eq]
        exact ⟨⟨⟨hlo, ha⟩, ‹_›⟩, ⟨⟨by omega, h'.1.1.2⟩, h'.1.2⟩, h'.2⟩
    · split
      · next e =>
        subst e
        split
        · exact wfFrom_mono h'.2 (by omega)
        · simp only [Memory.wfFrom, Bool.and_eq_true, decide_eq_true_eq, bne_iff_ne, ne_eq]
          exact ⟨⟨⟨hlo, ha⟩, ‹_›⟩, h'.2⟩
      · simp only [Memory.wfFrom, Bool.and_eq_true, decide_eq_true_eq, bne_iff_ne, ne_eq]
        exact ⟨h'.1, ih h'.2 (by omega)⟩

theorem wf_write {m : Memory} {a : Nat} {b : Byte} (h : Memory.wf m = true) (ha : a < memLimit) :
    Memory.wf (Memory.write m a b) = true := wfFrom_write h (Nat.zero_le a) ha

theorem wf_writeBytes {bs : List Byte} {m : Memory} {a : Nat} (h : Memory.wf m = true)
    (ha : a + bs.length ≤ memLimit) : Memory.wf (Memory.writeBytes m a bs) = true := by
  induction bs generalizing m a with
  | nil => exact h
  | cons b bs ih =>
    simp only [List.length_cons] at ha
    exact ih (wf_write h (by omega)) (by omega)

/-- Outside the written bytes every byte reads as before. -/
theorem read_writeBytes_outside {bs : List Byte} {m : Memory} {a q : Nat} (h : q < a ∨ a + bs.length ≤ q) :
    Memory.read (Memory.writeBytes m a bs) q = Memory.read m q := by
  induction bs generalizing m a with
  | nil => rfl
  | cons b bs ih =>
    simp only [List.length_cons] at h
    rw [Memory.writeBytes, ih (by omega), read_write_ne b (by omega)]

/-- Inside them, the byte written there. -/
theorem read_writeBytes_inside {bs : List Byte} {m : Memory} {a k : Nat} (h : Memory.wf m = true)
    (ha : a + bs.length ≤ memLimit) (hk : k < bs.length) :
    Memory.read (Memory.writeBytes m a bs) (a + k) = bs[k] := by
  induction bs generalizing m a k with
  | nil => simp at hk
  | cons b bs ih =>
    simp only [List.length_cons] at ha hk
    rw [Memory.writeBytes]
    cases k with
    | zero => rw [read_writeBytes_outside (by omega)]; exact read_write_same h
    | succ k =>
      have := ih (m := Memory.write m a b) (a := a + 1) (k := k) (wf_write h (by omega)) (by omega) (by omega)
      rw [show a + (k + 1) = a + 1 + k by omega, this]
      rfl

theorem accessFaults_eq_true {base len : Nat} : accessFaults base len = true ↔ 1 ≤ len ∧ memLimit ≤ base + len - 1 := by
  simp [accessFaults]

theorem accessFaults_eq_false {base len : Nat} :
    accessFaults base len = false ↔ len = 0 ∨ base + len ≤ memLimit := by
  rw [← Bool.not_eq_true, accessFaults_eq_true, memLimit]; omega

end Sys2Proof.Machine
end

