-- ==== Sys2Proof/Laws/Registers.lean ====
section
/-! SUPPORT. Reading a register after an update, and states equal when their registers read equal. -/

namespace Sys2Proof.Machine

@[simp] theorem reg_setReg_same (s : State) (r : Nibble) (b : Byte) : (s.setReg r b).reg r = b := by
  simp [State.reg, State.setReg]

@[simp] theorem reg_setReg_ne (s : State) {r q : Nibble} (b : Byte) (h : q ≠ r) : (s.setReg r b).reg q = s.reg q := by
  have : r.toNat ≠ q.toNat := fun e => h (BitVec.eq_of_toNat_eq e.symm)
  simp [State.reg, State.setReg, this]

theorem reg_setReg (s : State) (r q : Nibble) (b : Byte) : (s.setReg r b).reg q = if q = r then b else s.reg q := by
  split <;> simp_all

/-- The flag wins where both go to `VF`. -/
theorem reg_setRegAndFlag (s : State) (x q : Nibble) (b c : Byte) :
    (s.setRegAndFlag x b c).reg q = if q = vf then c else if q = x then b else s.reg q := by
  simp [State.setRegAndFlag, State.setFlag, reg_setReg]

theorem reg_setFlag (s : State) (q : Nibble) (c : Byte) : (s.setFlag c).reg q = if q = vf then c else s.reg q :=
  reg_setReg s vf q c

/-- A state update that leaves `v` alone leaves every register alone. -/
theorem reg_of_v {s t : State} (h : t.v = s.v) (r : Nibble) : t.reg r = s.reg r := by
  simp [State.reg, h]

theorem reg_loadBlock (s : State) (x q : Nibble) :
    (s.loadBlock x).reg q = if q.toNat ≤ x.toNat then s.readByte (dataBase s + q.toNat) else s.reg q := by
  simp only [State.reg, State.loadBlock, loadedRegs, Vector.getElem_ofFn, State.readByte]

/-- Register files that read alike are equal. -/
theorem v_ext {s t : State} (h : ∀ r : Nibble, s.reg r = t.reg r) : s.v = t.v := by
  apply Vector.ext
  intro k hk
  have := h (BitVec.ofNat 4 k)
  simp only [State.reg, BitVec.toNat_ofNat, Nat.mod_eq_of_lt (show k < 2 ^ 4 from hk)] at this
  exact this

end Sys2Proof.Machine
end

