-- ==== Sys2Proof/Laws/Ops.lean ====
section
/-! SUPPORT. Everything each shared operation can do, said once: push, pop, fetch, placing a word, the PC policy. -/

namespace Sys2Proof.Machine

/-- `push` on a stack that is not full. -/
theorem push_of_lt {s : State} (h : s.sp.val < 16) (w : Word) :
    s.push w = .ok { s with stk := s.stk.set s.sp.val w h, sp := ⟨s.sp.val + 1, Nat.succ_lt_succ h⟩ } := by
  simp [State.push, h]

/-- `push` on a full stack. -/
theorem push_of_full {s : State} (h : s.sp.val = 16) (w : Word) : s.push w = .error .stackFault := by
  simp [State.push, h]

/-- Everything `push` can answer. -/
theorem push_cases (s : State) (w : Word) :
    (s.sp.val = 16 ∧ s.push w = .error .stackFault) ∨
    (∃ h : s.sp.val < 16,
      s.push w = .ok { s with stk := s.stk.set s.sp.val w h, sp := ⟨s.sp.val + 1, Nat.succ_lt_succ h⟩ }) := by
  by_cases h : s.sp.val < 16
  · exact .inr ⟨h, push_of_lt h w⟩
  · have : s.sp.val = 16 := by have := s.sp.isLt; omega
    exact .inl ⟨this, push_of_full this w⟩

/-- `pop` on a stack that is not empty. -/
theorem pop_of_pos {s : State} (h : s.sp.val ≠ 0) :
    s.pop = .ok (s.stk[s.sp.val - 1]'(by have := s.sp.isLt; omega),
      { s with sp := ⟨s.sp.val - 1, by have := s.sp.isLt; omega⟩ }) := by
  simp [State.pop, h]

/-- `pop` on an empty stack. -/
theorem pop_of_empty {s : State} (h : s.sp.val = 0) : s.pop = .error .stackFault := by
  simp [State.pop, h]

/-- Everything `pop` can answer. -/
theorem pop_cases (s : State) :
    (s.sp.val = 0 ∧ s.pop = .error .stackFault) ∨
    (s.sp.val ≠ 0 ∧
      s.pop = .ok (s.stk[s.sp.val - 1]'(by have := s.sp.isLt; omega),
        { s with sp := ⟨s.sp.val - 1, by have := s.sp.isLt; omega⟩ })) := by
  by_cases h : s.sp.val = 0
  · exact .inl ⟨h, pop_of_empty h⟩
  · exact .inr ⟨h, pop_of_pos h⟩

/-- The fetch below the last address: the big-endian word. -/
theorem fetch_of_lt {s : State} (h : s.pc.toNat < 0xFFFF) :
    fetch s = some (wordOfBytes (s.readByte s.pc.toNat) (s.readByte (s.pc.toNat + 1))) := by
  have : accessFaults s.pc.toNat 2 = false := by rw [accessFaults_eq_false, memLimit]; omega
  simp [fetch, this]

/-- The fetch at the last address has no second byte. -/
theorem fetch_of_last {s : State} (h : s.pc.toNat = 0xFFFF) : fetch s = none := by
  have : accessFaults s.pc.toNat 2 = true := by rw [accessFaults_eq_true, memLimit]; omega
  simp [fetch, this]

@[simp] theorem fetch_setRun (s : State) (r : RunState) : fetch (s.setRun r) = fetch s := rfl

theorem toNat_highByte (w : Word) : (highByte w).toNat = w.toNat / 256 := by
  have := w.isLt
  simp only [highByte, BitVec.extractLsb'_toNat, Nat.shiftRight_eq_div_pow]; omega

theorem toNat_lowByte (w : Word) : (lowByte w).toNat = w.toNat % 256 := by
  simp [lowByte, BitVec.extractLsb'_toNat]

/-- Taking a word apart and putting it together. -/
@[simp] theorem wordOfBytes_high_low (w : Word) : wordOfBytes (highByte w) (lowByte w) = w := by
  apply BitVec.eq_of_toNat_eq
  simp only [wordOfBytes, BitVec.toNat_append, Nat.shiftLeft_eq, toNat_highByte, toNat_lowByte]
  rw [← Nat.shiftLeft_eq, ← Nat.shiftLeft_add_eq_or_of_lt (by omega), Nat.shiftLeft_eq]
  omega

@[simp] theorem readByte_setRun (s : State) (r : RunState) (a : Nat) : (s.setRun r).readByte a = s.readByte a := rfl

/-- A word placed at `pc` is what the next fetch reads. -/
theorem fetch_placeWord {s : State} (hm : Memory.wf s.mem = true) (h : s.pc.toNat < 0xFFFF) (w : Word) :
    fetch (placeWord s w) = some w := by
  have hb : accessFaults s.pc.toNat 2 = false := by rw [accessFaults_eq_false, memLimit]; omega
  have e : placeWord s w = s.storeBytes s.pc.toNat [highByte w, lowByte w] := by simp [placeWord, hb]
  rw [e, fetch_of_lt (by simpa using h)]
  have h0 := read_writeBytes_inside (bs := [highByte w, lowByte w]) (k := 0) (a := s.pc.toNat) hm
    (by simp [memLimit]; omega) (by simp)
  have h1 := read_writeBytes_inside (bs := [highByte w, lowByte w]) (k := 1) (a := s.pc.toNat) hm
    (by simp [memLimit]; omega) (by simp)
  simp only [Nat.add_zero, List.getElem_cons_zero, List.getElem_cons_succ] at h0 h1
  simp [State.readByte, h0, h1]

@[simp] theorem pcPolicy_advance (pc : Word) : pcPolicy .advance pc = pc + 2 := rfl
@[simp] theorem pcPolicy_skipNext (pc : Word) : pcPolicy .skipNext pc = pc + 4 := rfl
@[simp] theorem pcPolicy_jump (a pc : Word) : pcPolicy (.jump a) pc = a := rfl

@[simp] theorem length_bcdDigits (b : Byte) : (bcdDigits b).length = 3 := rfl

@[simp] theorem length_regBlock (s : State) (x : Nibble) : (regBlock s x).length = x.toNat + 1 := by
  simp [regBlock, blockLength]

/-- The byte of a register block at offset `k` is `V[k]`. -/
theorem getElem_regBlock (s : State) (x : Nibble) {k : Nat} (h : k < (regBlock s x).length) :
    (regBlock s x)[k] = s.reg (BitVec.ofNat 4 k) := by
  simp [regBlock]

theorem toNat_zextAddr (a : Addr) : (zextAddr a).toNat = a.toNat := by
  have := a.isLt
  simp only [zextAddr, BitVec.toNat_setWidth]; omega

theorem toNat_zextByte (b : Byte) : (zextByte b).toNat = b.toNat := by
  have := b.isLt
  simp only [zextByte, BitVec.toNat_setWidth]; omega

end Sys2Proof.Machine
end

