-- ==== Sys2Proof/Laws/Step.lean ====
section
/-! SUPPORT. What an instruction and a step can do, said once: `exec` is the kernel and the end of the step; the kernel
leaves the Engine's fields alone and answers one of a few forms; a step is one of five cases. -/

namespace Sys2Proof.Machine

/-- Executing an instruction is its kernel rule, then the end of the step (R100, R196). -/
theorem exec_eq_finish_kernel (i : Instr) (s : State) : exec i s = finish i s (kernel i s) := by
  cases i <;> rfl

/-- The end of a step always gives a next state, in one of three ways (R196). -/
theorem finish_cases (i : Instr) (s : State) (k : KernelResult) :
    (∃ w a, k = .ok w a ∧ finish i s k = .next (s.commit w a)) ∨
    (∃ x, k = .awaitKey x ∧ finish i s k = .next (s.awaitKey x)) ∨
    (∃ f, k = .fault f ∧ finish i s k = .next (s.halt f (some (encode i)))) := by
  cases k with
  | ok w a => exact .inl ⟨w, a, rfl, rfl⟩
  | awaitKey x => exact .inr (.inl ⟨x, rfl, rfl⟩)
  | fault f => exact .inr (.inr ⟨f, rfl, rfl⟩)

/-- What `exec` does, by the kernel's answer. -/
theorem exec_of_ok {i : Instr} {s w : State} {a : PcAction} (h : kernel i s = .ok w a) :
    exec i s = .next (s.commit w a) := by
  rw [exec_eq_finish_kernel, h]; rfl

theorem exec_of_awaitKey {i : Instr} {s : State} {x : Nibble} (h : kernel i s = .awaitKey x) :
    exec i s = .next (s.awaitKey x) := by
  rw [exec_eq_finish_kernel, h]; rfl

theorem exec_of_fault {i : Instr} {s : State} {f : FaultKind} (h : kernel i s = .fault f) :
    exec i s = .next (s.halt f (some (encode i))) := by
  rw [exec_eq_finish_kernel, h]; rfl

/-- Only load-from-key-blocking answers a key wait (R183). -/
theorem kernel_eq_awaitKey {i : Instr} {s : State} {x : Nibble} (h : kernel i s = .awaitKey x) :
    i = .loadFromKeyBlocking x := by
  cases i
  case loadFromKeyBlocking => cases h; rfl
  case call => simp only [kernel, kernelCall] at h; split at h <;> cases h
  case ret => simp only [kernel, kernelRet] at h; split at h <;> cases h
  case storeBcd => simp only [kernel, kernelStoreBcd] at h; split at h <;> cases h
  case storeRegistersToMemory => simp only [kernel, kernelStoreRegistersToMemory] at h; split at h <;> cases h
  case loadRegistersFromMemory => simp only [kernel, kernelLoadRegistersFromMemory] at h; split at h <;> cases h
  case drawSprite => simp only [kernel, kernelDrawSprite] at h; split at h <;> cases h
  all_goals cases h

/-! ### The step, case by case (R196, R203) -/

theorem step_of_haltedOnFault {s : State} (h : s.run = .haltedOnFault) : step s = .next s := by
  simp [step, engineStep, h]

theorem step_of_haltedOnKey {s : State} (h : s.run = .haltedOnKey) : step s = .next s := by
  simp [step, engineStep, h]

theorem step_of_executing {s : State} (h : s.run = .executing) : step s = .fault .stepWhileExecuting := by
  simp [step, engineStep, h]

theorem step_of_fetch_none {s : State} (h : s.run = .fetching) (hf : fetch s = none) :
    step s = .next (s.halt .memoryFault none) := by
  simp [step, engineStep, fetchAndRun, h, hf]

theorem step_of_decode_error {s : State} {w : Word} {e : DecodeReject} (h : s.run = .fetching) (hf : fetch s = some w)
    (hd : decodeWord w = .error e) : step s = .next (s.halt .decodeFault (some w)) := by
  simp [step, engineStep, fetchAndRun, h, hf, hd]

theorem step_of_decode_ok {s : State} {w : Word} {i : Instr} (h : s.run = .fetching) (hf : fetch s = some w)
    (hd : decodeWord w = .ok i) : step s = exec i (s.setRun .executing) := by
  simp [step, engineStep, fetchAndRun, h, hf, hd]

/-- Everything a step can do. -/
theorem step_cases (s : State) :
    (s.run = .executing ∧ step s = .fault .stepWhileExecuting) ∨
    ((s.run = .haltedOnKey ∨ s.run = .haltedOnFault) ∧ step s = .next s) ∨
    (s.run = .fetching ∧ fetch s = none ∧ step s = .next (s.halt .memoryFault none)) ∨
    (∃ w e, s.run = .fetching ∧ fetch s = some w ∧ decodeWord w = .error e ∧
      step s = .next (s.halt .decodeFault (some w))) ∨
    (∃ w i, s.run = .fetching ∧ fetch s = some w ∧ decodeWord w = .ok i ∧ step s = exec i (s.setRun .executing)) := by
  cases hr : s.run with
  | executing => exact .inl ⟨rfl, step_of_executing hr⟩
  | haltedOnKey => exact .inr (.inl ⟨.inl rfl, step_of_haltedOnKey hr⟩)
  | haltedOnFault => exact .inr (.inl ⟨.inr rfl, step_of_haltedOnFault hr⟩)
  | fetching =>
    refine .inr (.inr ?_)
    cases hf : fetch s with
    | none => exact .inl ⟨rfl, rfl, step_of_fetch_none hr hf⟩
    | some w =>
      refine .inr ?_
      cases hd : decodeWord w with
      | error e => exact .inl ⟨w, e, rfl, rfl, hd, step_of_decode_error hr hf hd⟩
      | ok i => exact .inr ⟨w, i, rfl, rfl, hd, step_of_decode_ok hr hf hd⟩

end Sys2Proof.Machine
end

