-- ==== Sys2Proof/Laws/Exec.lean ====
section
/-! SUPPORT. The instructions that may fault, each as its two outcomes: what it does where its condition (R112) does
not hold, and the halt where it does. Every other instruction's `exec` is one `State.commit` (or `State.awaitKey`) by
definition. -/

namespace Sys2Proof.Machine

theorem exec_call_of_lt {s : State} (h : s.sp.val < 16) (a : Addr) :
    exec (.call a) s = .next (s.commit
      { s with stk := s.stk.set s.sp.val s.pc h, sp := ⟨s.sp.val + 1, Nat.succ_lt_succ h⟩ } (.jump (zextAddr a))) := by
  simp only [exec, execCall, kernelCall, push_of_lt h, finish]

theorem exec_call_of_full {s : State} (h : s.sp.val = 16) (a : Addr) :
    exec (.call a) s = .next (s.halt .stackFault (some (encode (.call a)))) := by
  simp only [exec, execCall, kernelCall, push_of_full h, finish]

theorem exec_ret_of_pos {s : State} (h : s.sp.val ≠ 0) :
    exec .ret s = .next (s.commit { s with sp := ⟨s.sp.val - 1, by have := s.sp.isLt; omega⟩ }
      (.jump (s.stk[s.sp.val - 1]'(by have := s.sp.isLt; omega) + 2))) := by
  simp only [exec, execRet, kernelRet, pop_of_pos h, finish]

theorem exec_ret_of_empty {s : State} (h : s.sp.val = 0) :
    exec .ret s = .next (s.halt .stackFault (some (encode .ret))) := by
  simp only [exec, execRet, kernelRet, pop_of_empty h, finish]

theorem exec_storeBcd_of_fits {s : State} (h : accessFaults (dataBase s) 3 = false) (x : Nibble) :
    exec (.storeBcd x) s = .next (s.commit (s.storeBytes (dataBase s) (bcdDigits (s.reg x))) .advance) := by
  simp [exec, execStoreBcd, kernelStoreBcd, h, finish]

theorem exec_storeBcd_of_faults {s : State} (h : accessFaults (dataBase s) 3 = true) (x : Nibble) :
    exec (.storeBcd x) s = .next (s.halt .memoryFault (some (encode (.storeBcd x)))) := by
  simp [exec, execStoreBcd, kernelStoreBcd, h, finish]

theorem exec_storeRegisters_of_fits {s : State} {x : Nibble}
    (h : accessFaults (dataBase s) (blockLength x) = false) :
    exec (.storeRegistersToMemory x) s = .next (s.commit (s.storeBytes (dataBase s) (regBlock s x)) .advance) := by
  simp [exec, execStoreRegistersToMemory, kernelStoreRegistersToMemory, h, finish]

theorem exec_storeRegisters_of_faults {s : State} {x : Nibble}
    (h : accessFaults (dataBase s) (blockLength x) = true) :
    exec (.storeRegistersToMemory x) s =
      .next (s.halt .memoryFault (some (encode (.storeRegistersToMemory x)))) := by
  simp [exec, execStoreRegistersToMemory, kernelStoreRegistersToMemory, h, finish]

theorem exec_loadRegisters_of_fits {s : State} {x : Nibble}
    (h : accessFaults (dataBase s) (blockLength x) = false) :
    exec (.loadRegistersFromMemory x) s = .next (s.commit (s.loadBlock x) .advance) := by
  simp [exec, execLoadRegistersFromMemory, kernelLoadRegistersFromMemory, h, finish]

theorem exec_loadRegisters_of_faults {s : State} {x : Nibble}
    (h : accessFaults (dataBase s) (blockLength x) = true) :
    exec (.loadRegistersFromMemory x) s =
      .next (s.halt .memoryFault (some (encode (.loadRegistersFromMemory x)))) := by
  simp [exec, execLoadRegistersFromMemory, kernelLoadRegistersFromMemory, h, finish]

theorem exec_drawSprite_of_fits {s : State} {n : Nibble} (h : accessFaults (dataBase s) n.toNat = false)
    (x y : Nibble) :
    exec (.drawSprite x y n) s = .next (s.commit
      ((s.setDisp (drawRows s.mem (dataBase s) (s.reg x).toNat (s.reg y).toNat n.toNat s.disp).1).setFlag
        (flagByte (drawRows s.mem (dataBase s) (s.reg x).toNat (s.reg y).toNat n.toNat s.disp).2)) .advance) := by
  simp [exec, execDrawSprite, kernelDrawSprite, h, finish]

theorem exec_drawSprite_of_faults {s : State} {n : Nibble} (h : accessFaults (dataBase s) n.toNat = true)
    (x y : Nibble) :
    exec (.drawSprite x y n) s = .next (s.halt .memoryFault (some (encode (.drawSprite x y n)))) := by
  simp [exec, execDrawSprite, kernelDrawSprite, h, finish]

end Sys2Proof.Machine
end

