-- ==== Sys2Proof/Laws/HostCalls.lean ====
section
/-! SUPPORT. The host's calls, each as its cases: a program that fits and one that does not, a key supplied in a wait
and outside one, a timer counted down. -/

namespace Sys2Proof.Machine

/-- A program that fits is written from 0x200 on. -/
theorem loadProgram_of_fits {bs : List Byte} (h : bs.length ≤ 65024) (s : State) :
    s.loadProgram bs = .next (s.storeBytes progBase.toNat bs) := by
  simp [State.loadProgram, maxProgramBytes, Nat.not_lt.2 h]

/-- A program that does not is refused. -/
theorem loadProgram_of_too_long {bs : List Byte} (h : 65024 < bs.length) (s : State) :
    s.loadProgram bs = .refused .programTooLong := by
  simp [State.loadProgram, maxProgramBytes, h]

/-- A key supplied in a wait. -/
theorem supplyKey_of_waiting {s : State} (h : s.run = .haltedOnKey) (value : Nat) :
    s.supplyKey value =
      ((s.setReg s.keyDst (BitVec.ofNat 8 value)).setPc (s.pc + 2)).setRun .fetching := by
  simp [State.supplyKey, h, pcPolicy]

/-- A key supplied outside a wait is ignored. -/
theorem supplyKey_of_not_waiting {s : State} (h : s.run ≠ .haltedOnKey) (value : Nat) : s.supplyKey value = s := by
  cases hr : s.run <;> simp_all [State.supplyKey]

/-- Counting down saturates at 0. -/
theorem toNat_countDown (t : Byte) : (countDown t).toNat = t.toNat - 1 := by
  revert t; decide

/-- The last byte of a program that fits lies below the end of memory. -/
theorem programEnd_le {bs : List Byte} (h : bs.length ≤ 65024) : progBase.toNat + bs.length ≤ memLimit := by
  simp [progBase, memLimit]; omega

end Sys2Proof.Machine
end

