-- ==== Sys2Proof/Laws/PerInstr.lean ====
section
/-! SUPPORT. The family OpcodeRow, one lemma per constructor of `Instr`: the encoder's word has the bits its row of the
opcode map (30_encoding.md R85) fixes, and its tag is one of the 35. -/

namespace Sys2Proof.Laws.OpcodeRow

/-- The word of `i` belongs to the row of its tag: `w AND mask = match` (R85), and the tag is below 35 (R76). -/
def Statement (i : Instr) : Prop :=
  encode i &&& rowMask (categoryTag i) = rowMatch (categoryTag i) ∧ categoryTag i < 35

/-- A masked pattern, field by field. -/
theorem and_hnnn (h h' : Nibble) (a a' : Addr) : (h ++ a) &&& (h' ++ a') = (h &&& h') ++ (a &&& a') :=
  BitVec.and_append

theorem and_hxkk (h h' x x' : Nibble) (k k' : Byte) :
    (h ++ x ++ k) &&& (h' ++ x' ++ k') = (h &&& h') ++ (x &&& x') ++ (k &&& k') := by
  rw [BitVec.and_append, BitVec.and_append]

theorem and_hxyn (h h' x x' y y' n n' : Nibble) :
    ((h ++ x ++ y ++ n : BitVec (4 + 4 + 4 + 4)) &&& (h' ++ x' ++ y' ++ n' : BitVec (4 + 4 + 4 + 4))) =
      (h &&& h') ++ (x &&& x') ++ (y &&& y') ++ (n &&& n') := by
  rw [BitVec.and_append, BitVec.and_append, BitVec.and_append]

theorem clearScreen : Statement .clearScreen := ⟨by decide, by decide⟩

theorem ret : Statement .ret := ⟨by decide, by decide⟩

theorem jump (nnn : Addr) : Statement (.jump nnn) := by
  refine ⟨(and_hnnn 0x1#4 0xF#4 nnn 0x0#12).trans ?_, by simp [categoryTag]⟩
  simp [rowMatch, categoryTag]

theorem call (nnn : Addr) : Statement (.call nnn) := by
  refine ⟨(and_hnnn 0x2#4 0xF#4 nnn 0x0#12).trans ?_, by simp [categoryTag]⟩
  simp [rowMatch, categoryTag]

theorem skipEqualImmediate (x : Nibble) (kk : Byte) : Statement (.skipEqualImmediate x kk) := by
  refine ⟨(and_hxkk 0x3#4 0xF#4 x 0x0#4 kk 0x0#8).trans ?_, by simp [categoryTag]⟩
  simp [rowMatch, categoryTag]

theorem skipNotEqualImmediate (x : Nibble) (kk : Byte) : Statement (.skipNotEqualImmediate x kk) := by
  refine ⟨(and_hxkk 0x4#4 0xF#4 x 0x0#4 kk 0x0#8).trans ?_, by simp [categoryTag]⟩
  simp [rowMatch, categoryTag]

theorem skipEqualRegisters (x y n : Nibble) : Statement (.skipEqualRegisters x y n) := by
  refine ⟨(and_hxyn 0x5#4 0xF#4 x 0x0#4 y 0x0#4 n 0x0#4).trans ?_, by simp [categoryTag]⟩
  simp [rowMatch, categoryTag]

theorem loadImmediate (x : Nibble) (kk : Byte) : Statement (.loadImmediate x kk) := by
  refine ⟨(and_hxkk 0x6#4 0xF#4 x 0x0#4 kk 0x0#8).trans ?_, by simp [categoryTag]⟩
  simp [rowMatch, categoryTag]

theorem addImmediate (x : Nibble) (kk : Byte) : Statement (.addImmediate x kk) := by
  refine ⟨(and_hxkk 0x7#4 0xF#4 x 0x0#4 kk 0x0#8).trans ?_, by simp [categoryTag]⟩
  simp [rowMatch, categoryTag]

theorem loadRegister (x y : Nibble) : Statement (.loadRegister x y) := by
  refine ⟨(and_hxyn 0x8#4 0xF#4 x 0x0#4 y 0x0#4 0x0#4 0xF#4).trans ?_, by simp [categoryTag]⟩
  simp [rowMatch, categoryTag]

theorem orRegisters (x y : Nibble) : Statement (.orRegisters x y) := by
  refine ⟨(and_hxyn 0x8#4 0xF#4 x 0x0#4 y 0x0#4 0x1#4 0xF#4).trans ?_, by simp [categoryTag]⟩
  simp [rowMatch, categoryTag]

theorem andRegisters (x y : Nibble) : Statement (.andRegisters x y) := by
  refine ⟨(and_hxyn 0x8#4 0xF#4 x 0x0#4 y 0x0#4 0x2#4 0xF#4).trans ?_, by simp [categoryTag]⟩
  simp [rowMatch, categoryTag]

theorem xorRegisters (x y : Nibble) : Statement (.xorRegisters x y) := by
  refine ⟨(and_hxyn 0x8#4 0xF#4 x 0x0#4 y 0x0#4 0x3#4 0xF#4).trans ?_, by simp [categoryTag]⟩
  simp [rowMatch, categoryTag]

theorem addRegisters (x y : Nibble) : Statement (.addRegisters x y) := by
  refine ⟨(and_hxyn 0x8#4 0xF#4 x 0x0#4 y 0x0#4 0x4#4 0xF#4).trans ?_, by simp [categoryTag]⟩
  simp [rowMatch, categoryTag]

theorem subRegisters (x y : Nibble) : Statement (.subRegisters x y) := by
  refine ⟨(and_hxyn 0x8#4 0xF#4 x 0x0#4 y 0x0#4 0x5#4 0xF#4).trans ?_, by simp [categoryTag]⟩
  simp [rowMatch, categoryTag]

theorem shiftRight (x y : Nibble) : Statement (.shiftRight x y) := by
  refine ⟨(and_hxyn 0x8#4 0xF#4 x 0x0#4 y 0x0#4 0x6#4 0xF#4).trans ?_, by simp [categoryTag]⟩
  simp [rowMatch, categoryTag]

theorem subReverse (x y : Nibble) : Statement (.subReverse x y) := by
  refine ⟨(and_hxyn 0x8#4 0xF#4 x 0x0#4 y 0x0#4 0x7#4 0xF#4).trans ?_, by simp [categoryTag]⟩
  simp [rowMatch, categoryTag]

theorem shiftLeft (x y : Nibble) : Statement (.shiftLeft x y) := by
  refine ⟨(and_hxyn 0x8#4 0xF#4 x 0x0#4 y 0x0#4 0xE#4 0xF#4).trans ?_, by simp [categoryTag]⟩
  simp [rowMatch, categoryTag]

theorem skipNotEqualRegisters (x y n : Nibble) : Statement (.skipNotEqualRegisters x y n) := by
  refine ⟨(and_hxyn 0x9#4 0xF#4 x 0x0#4 y 0x0#4 n 0x0#4).trans ?_, by simp [categoryTag]⟩
  simp [rowMatch, categoryTag]

theorem loadIndexImmediate (nnn : Addr) : Statement (.loadIndexImmediate nnn) := by
  refine ⟨(and_hnnn 0xA#4 0xF#4 nnn 0x0#12).trans ?_, by simp [categoryTag]⟩
  simp [rowMatch, categoryTag]

theorem jumpWithOffset (nnn : Addr) : Statement (.jumpWithOffset nnn) := by
  refine ⟨(and_hnnn 0xB#4 0xF#4 nnn 0x0#12).trans ?_, by simp [categoryTag]⟩
  simp [rowMatch, categoryTag]

theorem randomAndMask (x : Nibble) (kk : Byte) : Statement (.randomAndMask x kk) := by
  refine ⟨(and_hxkk 0xC#4 0xF#4 x 0x0#4 kk 0x0#8).trans ?_, by simp [categoryTag]⟩
  simp [rowMatch, categoryTag]

theorem drawSprite (x y n : Nibble) : Statement (.drawSprite x y n) := by
  refine ⟨(and_hxyn 0xD#4 0xF#4 x 0x0#4 y 0x0#4 n 0x0#4).trans ?_, by simp [categoryTag]⟩
  simp [rowMatch, categoryTag]

theorem skipIfKeyPressed (x : Nibble) : Statement (.skipIfKeyPressed x) := by
  refine ⟨(and_hxkk 0xE#4 0xF#4 x 0x0#4 0x9E#8 0xFF#8).trans ?_, by simp [categoryTag]⟩
  simp [rowMatch, categoryTag]

theorem skipIfKeyNotPressed (x : Nibble) : Statement (.skipIfKeyNotPressed x) := by
  refine ⟨(and_hxkk 0xE#4 0xF#4 x 0x0#4 0xA1#8 0xFF#8).trans ?_, by simp [categoryTag]⟩
  simp [rowMatch, categoryTag]

theorem loadFromDelayTimer (x : Nibble) : Statement (.loadFromDelayTimer x) := by
  refine ⟨(and_hxkk 0xF#4 0xF#4 x 0x0#4 0x07#8 0xFF#8).trans ?_, by simp [categoryTag]⟩
  simp [rowMatch, categoryTag]

theorem loadFromKeyBlocking (x : Nibble) : Statement (.loadFromKeyBlocking x) := by
  refine ⟨(and_hxkk 0xF#4 0xF#4 x 0x0#4 0x0A#8 0xFF#8).trans ?_, by simp [categoryTag]⟩
  simp [rowMatch, categoryTag]

theorem loadToDelayTimer (x : Nibble) : Statement (.loadToDelayTimer x) := by
  refine ⟨(and_hxkk 0xF#4 0xF#4 x 0x0#4 0x15#8 0xFF#8).trans ?_, by simp [categoryTag]⟩
  simp [rowMatch, categoryTag]

theorem loadToSoundTimer (x : Nibble) : Statement (.loadToSoundTimer x) := by
  refine ⟨(and_hxkk 0xF#4 0xF#4 x 0x0#4 0x18#8 0xFF#8).trans ?_, by simp [categoryTag]⟩
  simp [rowMatch, categoryTag]

theorem addToIndex (x : Nibble) : Statement (.addToIndex x) := by
  refine ⟨(and_hxkk 0xF#4 0xF#4 x 0x0#4 0x1E#8 0xFF#8).trans ?_, by simp [categoryTag]⟩
  simp [rowMatch, categoryTag]

theorem loadFontAddress (x : Nibble) : Statement (.loadFontAddress x) := by
  refine ⟨(and_hxkk 0xF#4 0xF#4 x 0x0#4 0x29#8 0xFF#8).trans ?_, by simp [categoryTag]⟩
  simp [rowMatch, categoryTag]

theorem storeBcd (x : Nibble) : Statement (.storeBcd x) := by
  refine ⟨(and_hxkk 0xF#4 0xF#4 x 0x0#4 0x33#8 0xFF#8).trans ?_, by simp [categoryTag]⟩
  simp [rowMatch, categoryTag]

theorem storeRegistersToMemory (x : Nibble) : Statement (.storeRegistersToMemory x) := by
  refine ⟨(and_hxkk 0xF#4 0xF#4 x 0x0#4 0x55#8 0xFF#8).trans ?_, by simp [categoryTag]⟩
  simp [rowMatch, categoryTag]

theorem loadRegistersFromMemory (x : Nibble) : Statement (.loadRegistersFromMemory x) := by
  refine ⟨(and_hxkk 0xF#4 0xF#4 x 0x0#4 0x65#8 0xFF#8).trans ?_, by simp [categoryTag]⟩
  simp [rowMatch, categoryTag]

theorem sys (nnn : Addr) : Statement (.sys nnn) := by
  refine ⟨(and_hnnn 0x0#4 0xF#4 nnn 0x0#12).trans ?_, by simp [categoryTag]⟩
  simp [rowMatch, categoryTag]

end Sys2Proof.Laws.OpcodeRow
end

