-- ==== Sys2Proof/Tests/Slice0.lean ====
section
/-! SUPPORT. The model's own tests. Every expected value is from spec/95_test_vectors.md (section numbers in the
comments) or worked out by hand from the rule named; none is the model's own answer. The theorems named `witness_` show
that the hypotheses of a statement are met, one for each of its clauses. -/

namespace Sys2Proof.Tests

open Sys2Proof Sys2Proof.Machine

/-! ### WellFormed: the one check, and a term for each of its two ways to fail -/

theorem test_wf_sys_refuses_clear_screens_word : (Instr.sys 0x0E0#12).wellFormed = false := by decide
theorem test_wf_sys_refuses_returns_word : (Instr.sys 0x0EE#12).wellFormed = false := by decide
theorem test_wf_sys_admits_their_neighbours :
    (Instr.sys 0x0E1#12).wellFormed = true ∧ (Instr.sys 0x0EF#12).wellFormed = true ∧
    (Instr.sys 0x1E0#12).wellFormed = true := by decide

/-! ### Decode: a word of every constructor (section 2, and 1ABC, 6A3B of section 1) -/

theorem test_decode_family_0 :
    decodeWord 0x0000 = .ok (.sys 0x000) ∧ decodeWord 0x00E0 = .ok .clearScreen ∧ decodeWord 0x00EE = .ok .ret ∧
    decodeWord 0x00E1 = .ok (.sys 0x0E1) ∧ decodeWord 0x01E0 = .ok (.sys 0x1E0) ∧
    decodeWord 0x0ABE = .ok (.sys 0xABE) := by decide
theorem test_decode_jump : decodeWord 0x1ABC = .ok (.jump 0xABC) := by decide
theorem test_decode_call : decodeWord 0x2FFE = .ok (.call 0xFFE) := by decide
theorem test_decode_immediate_skips :
    decodeWord 0x3A00 = .ok (.skipEqualImmediate 0xA 0x00) ∧
    decodeWord 0x4BFF = .ok (.skipNotEqualImmediate 0xB 0xFF) := by decide
theorem test_decode_register_skips :
    decodeWord 0x5120 = .ok (.skipEqualRegisters 1 2 0) ∧ decodeWord 0x512F = .ok (.skipEqualRegisters 1 2 0xF) ∧
    decodeWord 0x9121 = .ok (.skipNotEqualRegisters 1 2 1) := by decide
theorem test_decode_immediates :
    decodeWord 0x6A3B = .ok (.loadImmediate 0xA 0x3B) ∧ decodeWord 0x7C01 = .ok (.addImmediate 0xC 0x01) := by decide
theorem test_decode_family_8 :
    decodeWord 0x8120 = .ok (.loadRegister 1 2) ∧ decodeWord 0x8121 = .ok (.orRegisters 1 2) ∧
    decodeWord 0x8122 = .ok (.andRegisters 1 2) ∧ decodeWord 0x8123 = .ok (.xorRegisters 1 2) ∧
    decodeWord 0x8124 = .ok (.addRegisters 1 2) ∧ decodeWord 0x8125 = .ok (.subRegisters 1 2) ∧
    decodeWord 0x8126 = .ok (.shiftRight 1 2) ∧ decodeWord 0x8127 = .ok (.subReverse 1 2) ∧
    decodeWord 0x812E = .ok (.shiftLeft 1 2) := by decide
theorem test_decode_families_A_to_D :
    decodeWord 0xA2F0 = .ok (.loadIndexImmediate 0x2F0) ∧ decodeWord 0xB300 = .ok (.jumpWithOffset 0x300) ∧
    decodeWord 0xC30F = .ok (.randomAndMask 3 0x0F) ∧ decodeWord 0xD015 = .ok (.drawSprite 0 1 5) := by decide
theorem test_decode_family_E :
    decodeWord 0xE49E = .ok (.skipIfKeyPressed 4) ∧ decodeWord 0xE4A1 = .ok (.skipIfKeyNotPressed 4) := by decide
theorem test_decode_family_F :
    decodeWord 0xF207 = .ok (.loadFromDelayTimer 2) ∧ decodeWord 0xF50A = .ok (.loadFromKeyBlocking 5) ∧
    decodeWord 0xF215 = .ok (.loadToDelayTimer 2) ∧ decodeWord 0xF218 = .ok (.loadToSoundTimer 2) ∧
    decodeWord 0xF21E = .ok (.addToIndex 2) ∧ decodeWord 0xF329 = .ok (.loadFontAddress 3) ∧
    decodeWord 0xF333 = .ok (.storeBcd 3) ∧ decodeWord 0xF255 = .ok (.storeRegistersToMemory 2) ∧
    decodeWord 0xF265 = .ok (.loadRegistersFromMemory 2) := by decide
theorem test_decode_rejects_by_name :
    decodeWord 0x8128 = .error (.family8 8) ∧ decodeWord 0x812F = .error (.family8 0xF) ∧
    decodeWord 0xE49F = .error (.familyE 0x9F) ∧ decodeWord 0xE4A0 = .error (.familyE 0xA0) ∧
    decodeWord 0xF205 = .error (.familyF 0x05) ∧ decodeWord 0xF275 = .error (.familyF 0x75) ∧
    decodeWord 0xFFFF = .error (.familyF 0xFF) := by decide
/-- Two bytes, the high one first, and the rest is left (R53, R70). -/
theorem test_decode_bytes :
    decodeBytes [0x6A, 0x3B, 0x12] = .ok (.loadImmediate 0xA 0x3B, [0x12]) ∧
    decodeBytes [0x6A] = .error .fewerThanTwoBytes ∧ decodeBytes [] = .error .fewerThanTwoBytes := by decide
/-- The raw fields of D015 and of 8128, with its fault and tag 63 (section 2). -/
theorem test_decoder_ports :
    decoderPorts 0xD015 = ⟨0xD015, 22, false, 0x015, 5, 0, 1, 0x15⟩ ∧
    decoderPorts 0x8128 = ⟨0x8128, 63, true, 0x128, 8, 1, 2, 0x28⟩ := by decide
theorem test_decode_table_word :
    decodeTableWord 16 0x6A3B = some (.loadImmediate 0xA 0x3B) ∧ decodeTableWord 16 0x8128 = none := by decide

/-! ### Steps

`run w s` is the state one step from `s` leaves, with the word `w` placed at the program counter. -/

def after : Host.Outcome State Fault Refusal → Option State
  | .next t => some t
  | .fault _ => none
  | .refused _ => none

def run (w : Word) (s : State) : Option State := after (step (placeWord s w))

/-- The reset state with two registers set. -/
def with2 (x : Nibble) (a : Byte) (y : Nibble) (b : Byte) : State := (State.reset.setReg x a).setReg y b

/-- The reset state with `I` and bytes at it. -/
def withMem (i : Word) (bs : List Byte) : State := (State.reset.setI i).storeBytes i.toNat bs

/-- The pixels of a list of (row, column) are all set. -/
def lit (s : State) (ps : List (Nat × Nat)) : Bool := ps.all fun p => s.disp.pixel p.1 p.2

/-- The pixels of a list of (row, column) are all clear. -/
def dark (s : State) (ps : List (Nat × Nat)) : Bool := ps.all fun p => !s.disp.pixel p.1 p.2

/-- From reset with nothing placed, the word 0000 at 0x200 is a sys (P6c, section 8). -/
theorem test_reset_steps_on_empty_memory : (after (step State.reset)).map (·.pc) = some 0x0202 := by decide
/-- The host's way in: the word runs as the first instruction (R228; log 6). -/
theorem test_with_fetch_word :
    (after (step (State.reset.withFetchWord 16 0x6A3B))).map (fun t => (t.reg 0xA, t.pc)) = some (0x3B, 0x0202) := by
  decide

/-- Bytes of glyphs 0, 1, 7, B and F of the font, the last of them, and the zeros around it (R222's table). -/
theorem test_font_bytes :
    State.reset.readByte 0x04F = 0x00 ∧ State.reset.readByte 0x050 = 0xF0 ∧ State.reset.readByte 0x056 = 0x60 ∧
    State.reset.readByte 0x075 = 0x20 ∧ State.reset.readByte 0x087 = 0xE0 ∧ State.reset.readByte 0x09D = 0xF0 ∧
    State.reset.readByte 0x09F = 0x80 ∧ State.reset.readByte 0x0A0 = 0x00 := by decide
/-- R194's cause codes. -/
theorem test_fault_codes :
    [none, some .decodeFault, some .memoryFault, some .stackFault].map faultCode = [0, 1, 2, 3] := by decide

/-! Control flow (section 3) -/

theorem test_sys : (run 0x0123 State.reset).map (fun t => t.pc) = some 0x0202 := by decide
theorem test_sys_wraps : (run 0x0000 (State.reset.setPc 0xFFFE)).map (·.pc) = some 0x0000 := by decide
theorem test_jump : (run 0x1ABC State.reset).map (·.pc) = some 0x0ABC := by decide
theorem test_jump_to_odd : (run 0x1301 State.reset).map (·.pc) = some 0x0301 := by decide
theorem test_call :
    (run 0x2300 (State.reset.setPc 0x0204)).map (fun t => (t.stk[0], t.sp.val, t.pc)) = some (0x0204, 1, 0x0300) := by
  decide
theorem test_call_on_a_full_stack :
    (run 0x2300 { State.reset with sp := 16 }).map (fun t => (t.run, t.sp.val, t.faultRec)) =
      some (.haltedOnFault, 16, some ⟨.stackFault, 0x0200, some 0x2300⟩) := by decide
def oneCall (a : Word) : State := { State.reset with sp := 1, stk := (Vector.replicate 16 0x0000#16).set 0 a }
theorem test_ret :
    (run 0x00EE (oneCall 0x0204)).map (fun t => (t.sp.val, t.pc)) = some (0, 0x0206) ∧
    (run 0x00EE (oneCall 0xFFFE)).map (fun t => (t.sp.val, t.pc)) = some (0, 0x0000) := by decide
theorem test_ret_on_an_empty_stack :
    (run 0x00EE State.reset).map (fun t => (t.run, t.pc, t.faultRec)) =
      some (.haltedOnFault, 0x0200, some ⟨.stackFault, 0x0200, some 0x00EE⟩) := by decide
theorem test_skip_equal_immediate :
    (run 0x332A (State.reset.setReg 3 0x2A)).map (·.pc) = some 0x0204 ∧
    (run 0x332A (State.reset.setReg 3 0x2B)).map (·.pc) = some 0x0202 := by decide
theorem test_skip_wraps_by_four : (run 0x3000 (State.reset.setPc 0xFFFE)).map (·.pc) = some 0x0002 := by decide
theorem test_skip_not_equal_immediate :
    (run 0x432A (State.reset.setReg 3 0x2A)).map (·.pc) = some 0x0202 ∧
    (run 0x432A State.reset).map (·.pc) = some 0x0204 := by decide
theorem test_skip_equal_registers :
    (run 0x5120 (with2 1 7 2 7)).map (·.pc) = some 0x0204 ∧ (run 0x512F (with2 1 7 2 7)).map (·.pc) = some 0x0204 ∧
    (run 0x5120 (with2 1 7 2 8)).map (·.pc) = some 0x0202 := by decide
theorem test_skip_not_equal_registers :
    (run 0x9120 (with2 1 7 2 8)).map (·.pc) = some 0x0204 ∧ (run 0x9120 (with2 1 7 2 7)).map (·.pc) = some 0x0202 := by
  decide
theorem test_jump_with_offset :
    (run 0xB300 (State.reset.setReg 0 0x04)).map (·.pc) = some 0x0304 ∧
    (run 0xBFFF (State.reset.setReg 0 0xFF)).map (·.pc) = some 0x10FE := by decide
theorem test_fetch_at_the_last_address :
    (after (step (State.reset.setPc 0xFFFF))).map (fun t => (t.run, t.pc, t.faultRec)) =
      some (.haltedOnFault, 0xFFFF, some ⟨.memoryFault, 0xFFFF, none⟩) := by decide

/-! Loads and arithmetic (section 4); the pair is the register and `VF`, which starts as EE where it must not change -/

/-- `V[1]` and `VF` after the word, from `V[1] = a`, `V[2] = b`, `VF = 0xEE`. -/
def alu (w : Word) (a b : Byte) : Option (Byte × Byte) :=
  (run w ((with2 1 a 2 b).setReg 0xF 0xEE)).map fun t => (t.reg 1, t.reg 0xF)
/-- `VF` after the word, from `VF = a`, `V[2] = b`. -/
def aluF (w : Word) (a b : Byte) : Option Byte := (run w (with2 0xF a 2 b)).map (·.reg 0xF)

theorem test_load_immediate :
    (run 0x6A3B State.reset).map (·.reg 0xA) = some 0x3B ∧ (run 0x6F07 State.reset).map (·.reg 0xF) = some 0x07 := by
  decide
theorem test_add_immediate :
    alu 0x71FF 0x00 0 = some (0xFF, 0xEE) ∧ alu 0x7101 0xFF 0 = some (0x00, 0xEE) := by decide
theorem test_load_register :
    (run 0x8340 (State.reset.setReg 4 0x99)).map (fun t => (t.reg 3, t.reg 4)) = some (0x99, 0x99) := by decide
theorem test_or : alu 0x8121 0xF0 0x0F = some (0xFF, 0xEE) := by decide
theorem test_and : alu 0x8122 0xF3 0x3F = some (0x33, 0xEE) := by decide
theorem test_xor : alu 0x8123 0xF3 0x3F = some (0xCC, 0xEE) ∧ alu 0x8123 0xFF 0xFF = some (0x00, 0xEE) := by decide
theorem test_add_registers :
    alu 0x8124 0xFF 0x01 = some (0x00, 0x01) ∧ alu 0x8124 0xFF 0x00 = some (0xFF, 0x00) ∧
    alu 0x8124 0x7F 0x01 = some (0x80, 0x00) ∧ alu 0x8114 0x90 0x00 = some (0x20, 0x01) := by decide
theorem test_add_registers_into_the_flag : aluF 0x8F24 0x01 0x02 = some 0x00 ∧ aluF 0x8FF4 0x80 0x00 = some 0x01 := by
  decide
theorem test_sub_registers :
    alu 0x8125 0x05 0x05 = some (0x00, 0x01) ∧ alu 0x8125 0x03 0x05 = some (0xFE, 0x00) ∧
    alu 0x8125 0x80 0x7F = some (0x01, 0x01) := by decide
theorem test_sub_registers_into_the_flag : aluF 0x8F25 0x05 0x03 = some 0x01 ∧ aluF 0x8F25 0x03 0x05 = some 0x00 := by
  decide
theorem test_sub_reverse :
    alu 0x8127 0x03 0x05 = some (0x02, 0x01) ∧ alu 0x8127 0x05 0x03 = some (0xFE, 0x00) ∧
    alu 0x8127 0x05 0x05 = some (0x00, 0x01) := by decide
theorem test_sub_reverse_into_the_flag : aluF 0x8F27 0x03 0x05 = some 0x01 := by decide
theorem test_shift_right :
    alu 0x8126 0x05 0xAA = some (0x02, 0x01) ∧ alu 0x8126 0x80 0x00 = some (0x40, 0x00) := by decide
theorem test_shift_right_into_the_flag : aluF 0x8F26 0x03 0x00 = some 0x01 ∧ aluF 0x8F26 0x02 0x00 = some 0x00 := by
  decide
theorem test_shift_left :
    alu 0x812E 0x81 0xAA = some (0x02, 0x01) ∧ alu 0x812E 0x7F 0x00 = some (0xFE, 0x00) := by decide
theorem test_shift_left_into_the_flag : aluF 0x8F2E 0x80 0x00 = some 0x01 ∧ aluF 0x8F2E 0x7F 0x00 = some 0x00 := by
  decide

/-! Index register and memory (section 5) -/

theorem test_load_index_immediate : (run 0xA2F0 State.reset).map (·.i) = some 0x02F0 := by decide
theorem test_add_to_index :
    (run 0xF21E ((State.reset.setReg 2 0x01).setI 0x0FFF)).map (fun t => (t.i, t.reg 0xF)) = some (0x1000, 0x00) ∧
    (run 0xF21E ((State.reset.setReg 2 0x01).setI 0xFFFF)).map (fun t => (t.i, t.reg 0xF)) = some (0x0000, 0x00) := by
  decide
theorem test_load_font_address :
    (run 0xF329 (State.reset.setReg 3 0x0A)).map (·.i) = some 0x0032 ∧
    (run 0xF329 (State.reset.setReg 3 0xFF)).map (·.i) = some 0x04FB := by decide
theorem test_store_bcd :
    (run 0xF333 ((State.reset.setReg 3 157).setI 0x0300)).map
      (fun t => (t.readByte 0x300, t.readByte 0x301, t.readByte 0x302, t.i)) = some (1, 5, 7, 0x0300) := by decide
theorem test_store_bcd_at_the_end :
    (run 0xF033 ((State.reset.setReg 0 0xFF).setI 0xFFFD)).map
      (fun t => (t.readByte 0xFFFD, t.readByte 0xFFFE, t.readByte 0xFFFF, t.pc)) = some (2, 5, 5, 0x0202) ∧
    (run 0xF033 ((State.reset.setReg 0 0xFF).setI 0xFFFE)).map
      (fun t => (t.readByte 0xFFFE, t.readByte 0xFFFF, t.pc, t.faultRec)) =
        some (0, 0, 0x0200, some ⟨.memoryFault, 0x0200, some 0xF033⟩) := by decide
theorem test_store_registers :
    (run 0xF255 (((with2 0 0x11 1 0x22).setReg 2 0x33).setI 0x0300)).map
      (fun t => (t.readByte 0x300, t.readByte 0x301, t.readByte 0x302, t.readByte 0x303, t.i)) =
        some (0x11, 0x22, 0x33, 0x00, 0x0300) := by decide
theorem test_store_registers_at_the_end :
    (run 0xF055 ((with2 0 0xAA 1 0xBB).setI 0xFFFF)).map (fun t => (t.readByte 0xFFFF, t.pc)) = some (0xAA, 0x0202) ∧
    (run 0xF155 ((with2 0 0xAA 1 0xBB).setI 0xFFFF)).map (fun t => (t.readByte 0xFFFF, t.pc, t.faultRec)) =
      some (0x00, 0x0200, some ⟨.memoryFault, 0x0200, some 0xF155⟩) := by decide
theorem test_load_registers :
    (run 0xF265 ((withMem 0x0300 [1, 5, 7]).setReg 3 0x77)).map (fun t => (t.reg 0, t.reg 1, t.reg 2, t.reg 3, t.i)) =
      some (1, 5, 7, 0x77, 0x0300) := by decide
theorem test_load_registers_at_the_end :
    (run 0xFF65 (withMem 0xFFF0 ((List.range 16).map fun k => BitVec.ofNat 8 (k + 1)))).map
      (fun t => (t.reg 0, t.reg 0xE, t.reg 0xF)) = some (0x01, 0x0F, 0x10) ∧
    (run 0xFF65 ((State.reset.setI 0xFFF1).setReg 0 0x5A)).map (fun t => (t.reg 0, t.run)) =
      some (0x5A, .haltedOnFault) := by decide

/-! Display (section 6) -/

theorem test_clear_screen :
    (run 0x00E0 ((State.reset.setDisp (Display.clear.setPixel 31 63 true)).setReg 0xF 0xEE)).map
      (fun t => (t.disp.pixel 31 63, t.reg 0xF)) = some (false, 0xEE) := by decide
theorem test_draw_wraps_columns :
    (run 0xD011 ((withMem 0x0300 [0xFF]).setReg 0 60)).map
      (fun t => (lit t [(0, 60), (0, 61), (0, 62), (0, 63), (0, 0), (0, 1), (0, 2), (0, 3)], dark t [(0, 59), (0, 4), (1, 0), (31, 60)], t.reg 0xF)) =
        some (true, true, 0x00) := by decide
theorem test_draw_collides :
    (run 0xD012 ((withMem 0x0300 [0xFF, 0x00]).setDisp (Display.clear.setPixel 0 7 true))).map
      (fun t => (lit t [(0, 0), (0, 1), (0, 2), (0, 3), (0, 4), (0, 5), (0, 6)], dark t [(0, 7), (0, 8), (1, 0)], t.reg 0xF)) =
        some (true, true, 0x01) := by decide

/-! Random, keys, timers, host calls (section 7) -/

/-- Whatever byte the environment gives, the mask 00 leaves 00; with 0F it is the byte's low nibble. -/
theorem test_random_and_mask :
    (run 0xC300 State.reset).map (·.reg 3) = some (Config.rnd 0 &&& 0x00) ∧
    (run 0xC30F State.reset).map (fun t => (t.reg 3, t.draws)) = some (Config.rnd 0 &&& 0x0F, 1) := ⟨rfl, rfl⟩
theorem test_skip_if_key_pressed :
    (after (exec (.skipIfKeyPressed 4) (State.reset.setReg 4 0x0A))).map (·.pc) =
      some (if Config.keyDown 0 0x0A = true then 0x0204 else 0x0202) := by
  show some (pcPolicy (if Config.keyDown 0 0x0A = true then .skipNext else .advance) 0x0200) = _
  split <;> rfl
theorem test_skip_if_key_not_pressed :
    (after (exec (.skipIfKeyNotPressed 4) (State.reset.setReg 4 0x0A))).map (·.pc) =
      some (if Config.keyDown 0 0x0A = true then 0x0202 else 0x0204) := by
  show some (pcPolicy (if Config.keyDown 0 0x0A = true then .advance else .skipNext) 0x0200) = _
  split <;> rfl
theorem test_load_from_delay_timer : (run 0xF207 (State.reset.setDt 0x3C)).map (·.reg 2) = some 0x3C := by decide
theorem test_load_to_delay_timer : (run 0xF215 (State.reset.setReg 2 0x3C)).map (·.dt) = some 0x3C := by decide
theorem test_load_to_sound_timer : (run 0xF218 (State.reset.setReg 2 0x05)).map (·.st) = some 0x05 := by decide
theorem test_load_from_key_blocking :
    (run 0xF50A (State.reset.setPc 0x0210)).map (fun t => (stepResult t, t.run, t.keyDst, t.pc, t.reg 5)) =
      some (.awaitingKey, .haltedOnKey, 5, 0x0210, 0x00) := by decide
def waiting : State := (State.reset.setPc 0x0210).awaitKey 5
theorem test_supply_key :
    (fun t => (t.reg 5, t.pc, t.run)) (waiting.supplyKey 7) = (0x07, 0x0212, .fetching) ∧
    State.reset.supplyKey 7 = State.reset ∧ after (step waiting) = some waiting := by decide
theorem test_tick_timers :
    (fun t => (t.dt, t.st)) ((State.reset.setDt 2).tickTimers) = (0x01, 0x00) ∧
    (fun t => (t.dt, t.st)) ((State.reset.setSt 1).tickTimers) = (0x00, 0x00) ∧
    (fun t => (t.dt, t.run)) (((State.reset.setDt 5).setRun .haltedOnFault).tickTimers) = (0x04, .haltedOnFault) := by
  decide
/-- P6b: the illegal word 8128 at 0x202 halts, and the next step returns the same fault. -/
theorem test_illegal_word_halts :
    (run 0x8128 (State.reset.setPc 0x0202)).map (fun t => (stepResult t, t.pc, t.faultRec, after (step t) == some t)) =
      some (.fault (some .decodeFault), 0x0202, some ⟨.decodeFault, 0x0202, some 0x8128⟩, true) := by decide

/-! ### Witnesses: the hypotheses of each statement are met, at the boundaries of each clause -/

theorem witness_DecodeOfEncodeIsTheInstruction :
    (Instr.drawSprite 0xF 0xF 0xF).wellFormed = true ∧ (Instr.sys 0xFFF).wellFormed = true := by decide
theorem witness_EncodeOfDecodeIsTheWord : decodeWord 0xFF65 = .ok (.loadRegistersFromMemory 0xF) := by decide
theorem witness_WordsBelongToTheRowTheyMatch :
    decodeWord 0x812E = .ok (.shiftLeft 1 2) ∧
    0x00E0 &&& rowMask 0 = rowMatch 0 ∧ 0xFF65 &&& rowMask 33 = rowMatch 33 ∧
    0x0FFF &&& rowMask 34 = rowMatch 34 ∧ 0x00E1 &&& rowMask 34 = rowMatch 34 := by decide
theorem witness_DecoderPortsTellFaultFromCategory :
    decodeWord 0x0FFF = .ok (.sys 0xFFF) ∧ decodeWord 0x812F = .error (.family8 0xF) := by decide

def lastWord (w : Word) : State := placeWord (State.reset.setPc 0xFFFE) w
theorem witness_StepRunsTheDecodedInstruction :
    (lastWord 0x6A3B).run = .fetching ∧ (lastWord 0x6A3B).pc.toNat < 0xFFFF ∧
    (0x6A3B#16).toNat = ((lastWord 0x6A3B).readByte (lastWord 0x6A3B).pc.toNat).toNat * 256 +
      ((lastWord 0x6A3B).readByte ((lastWord 0x6A3B).pc.toNat + 1)).toNat ∧
    decodeWord 0x6A3B = .ok (.loadImmediate 0xA 0x3B) := by decide
theorem witness_StepHaltsOnFetchAndDecodeFaults :
    ((State.reset.setPc 0xFFFF).run = .fetching ∧ (State.reset.setPc 0xFFFF).pc = 0xFFFF) ∧
    (lastWord 0x8128).run = .fetching ∧ (lastWord 0x8128).pc.toNat < 0xFFFF ∧
    (0x8128#16).toNat = ((lastWord 0x8128).readByte (lastWord 0x8128).pc.toNat).toNat * 256 +
      ((lastWord 0x8128).readByte ((lastWord 0x8128).pc.toNat + 1)).toNat ∧
    decodeWord 0x8128 = .error (.family8 8) := by decide

def faulted : State := State.reset.halt .stackFault (some 0x00EE)
theorem witness_HaltedEnginesStayAsTheyAre :
    (faulted.run = .haltedOnFault ∧ faulted.faultRec = some ⟨.stackFault, 0x0200, some 0x00EE⟩) ∧
    waiting.run = .haltedOnKey := by decide
theorem witness_EveryStepKeepsTheInvariant : State.Inv State.reset ∧ State.Inv faulted ∧ State.Inv waiting := by decide
theorem witness_EverySchedulePreservesTheInvariant :
    State.Inv State.reset ∧ ∃ bs : List Byte, 65024 < bs.length ∧
      runCalls [.tickTimers, .loadProgram bs] State.reset = .refused .programTooLong :=
  ⟨by decide, List.replicate 65025 0x00#8, by rw [List.length_replicate]; decide, by
    simp only [runCalls, hostCall, State.loadProgram, List.length_replicate, maxProgramBytes]; rfl⟩

def atI (i : Word) : State := State.reset.setI i
def atSp (k : Fin 17) : State := { State.reset with sp := k }
theorem witness_FaultsArePreciseAndThoseOfTheTable_faults :
    Claims.faultOf (.call 0x300) (atSp 16) = some .stackFault ∧ Claims.faultOf .ret (atSp 0) = some .stackFault ∧
    Claims.faultOf (.storeBcd 0) (atI 0xFFFE) = some .memoryFault ∧
    Claims.faultOf (.storeRegistersToMemory 1) (atI 0xFFFF) = some .memoryFault ∧
    Claims.faultOf (.loadRegistersFromMemory 0xF) (atI 0xFFF1) = some .memoryFault ∧
    Claims.faultOf (.drawSprite 0 0 2) (atI 0xFFFF) = some .memoryFault := by decide
theorem witness_FaultsArePreciseAndThoseOfTheTable_none :
    Claims.faultOf (.call 0x300) (atSp 15) = none ∧ Claims.faultOf .ret (atSp 1) = none ∧
    Claims.faultOf (.storeBcd 0) (atI 0xFFFD) = none ∧
    Claims.faultOf (.storeRegistersToMemory 0) (atI 0xFFFF) = none ∧
    Claims.faultOf (.loadRegistersFromMemory 0xF) (atI 0xFFF0) = none ∧
    Claims.faultOf (.drawSprite 0 0 1) (atI 0xFFFF) = none ∧
    Claims.faultOf (.drawSprite 0 0 0) (atI 0xFFFF) = none := by decide
theorem witness_PcMovesByTheCategorysAction :
    (∃ t, exec (.skipEqualRegisters 1 1 0) State.reset = .next t ∧ t.run = .fetching) ∧
    (∃ t, exec .ret State.reset = .next t ∧ t.run ≠ .fetching) ∧
    (∃ t, exec (.loadFromKeyBlocking 5) State.reset = .next t ∧ t.run ≠ .fetching) :=
  ⟨⟨_, rfl, by decide⟩, ⟨_, rfl, by decide⟩, ⟨_, rfl, by decide⟩⟩
theorem witness_NoInstructionReadsRunOrFaultRecord : ∃ t, exec (.randomAndMask 3 0x0F) State.reset = .next t := ⟨_, rfl⟩
theorem witness_ProgramLoadPlacesTheBytes :
    Memory.wf State.reset.mem = true ∧ ([0x00, 0xE0] : List Byte).length ≤ 65024 ∧
    2 ≤ ([0x00, 0xE0] : List Byte).length ∧ State.reset.pc = 0x0200 ∧
    (List.replicate 65024 0x00#8).length ≤ 65024 ∧ 65024 < (List.replicate 65025 0x00#8).length := by
  simp only [List.length_replicate]; decide
theorem witness_SupplyKeyResolvesOnlyAKeyWait : State.reset.run ≠ .haltedOnKey ∧ waiting.run = .haltedOnKey := by decide
theorem witness_TheKeyWaitKeepsAllButTheTimers :
    (∃ t, exec (.loadFromKeyBlocking 5) State.reset = .next t ∧ t.run = .haltedOnKey) ∧
    (waiting.run = .haltedOnKey ∧ ∀ c ∈ [HostCall.step, .tickTimers, .displaySnapshot],
      c = .step ∨ c = .tickTimers ∨ c = .displaySnapshot) ∧
    (∃ t, hostCall (.supplyKey 7) waiting = .next t ∧ t.run ≠ .haltedOnKey) ∧
    (∃ t, hostCall .reset waiting = .next t ∧ t.run ≠ .haltedOnKey) :=
  ⟨⟨_, rfl, by decide⟩, by decide, ⟨_, rfl, by decide⟩, ⟨_, rfl, by decide⟩⟩
def ticking : State := ((State.reset.setDt 1).setSt 1).setReg 2 0x05
theorem witness_DelayTimerHasOneWriterAndOneReader :
    (∃ t, exec (.loadToDelayTimer 2) ticking = .next t ∧ t.dt ≠ ticking.dt) ∧
    ((∀ x, Instr.loadToDelayTimer 2 ≠ .loadFromDelayTimer x) ∧ ∃ t, exec (.loadToDelayTimer 2) ticking = .next t) ∧
    (∃ t, hostCall .tickTimers ticking = .next t ∧ t.dt ≠ ticking.dt) ∧
    (∃ t, hostCall .reset ticking = .next t ∧ t.dt ≠ ticking.dt) ∧
    (∃ t, hostCall .step (placeWord ticking 0xF215) = .next t ∧ t.dt ≠ (placeWord ticking 0xF215).dt) :=
  ⟨⟨_, rfl, by decide⟩, ⟨by simp, _, rfl⟩, ⟨_, rfl, by decide⟩, ⟨_, rfl, by decide⟩, ⟨_, rfl, by decide⟩⟩
theorem witness_SoundTimerHasOneWriterAndNoReader :
    (∃ t, exec (.loadToSoundTimer 2) ticking = .next t ∧ t.st ≠ ticking.st) ∧
    (∃ t, hostCall .tickTimers ticking = .next t ∧ t.st ≠ ticking.st) ∧
    (∃ t, hostCall .reset ticking = .next t ∧ t.st ≠ ticking.st) ∧
    (∃ t, hostCall .step (placeWord ticking 0xF218) = .next t ∧ t.st ≠ (placeWord ticking 0xF218).st) :=
  ⟨⟨_, rfl, by decide⟩, ⟨_, rfl, by decide⟩, ⟨_, rfl, by decide⟩, ⟨_, rfl, by decide⟩⟩
theorem witness_IndexRegisterHasItsWritersAndReaders :
    (∃ t, exec (.loadIndexImmediate 0xFFF) ticking = .next t ∧ t.i ≠ ticking.i) ∧
    (∃ t, exec (.addToIndex 2) ticking = .next t ∧ t.i ≠ ticking.i) ∧
    (∃ t, exec (.loadFontAddress 2) ticking = .next t ∧ t.i ≠ ticking.i) ∧
    ((∀ x, Instr.call 0x300 ≠ .addToIndex x) ∧ (∀ x y n, Instr.call 0x300 ≠ .drawSprite x y n) ∧
      (∀ x, Instr.call 0x300 ≠ .storeBcd x) ∧ (∀ x, Instr.call 0x300 ≠ .storeRegistersToMemory x) ∧
      (∀ x, Instr.call 0x300 ≠ .loadRegistersFromMemory x) ∧ ∃ t, exec (.call 0x300) ticking = .next t) :=
  ⟨⟨_, rfl, by decide⟩, ⟨_, rfl, by decide⟩, ⟨_, rfl, by decide⟩, by simp, by simp, by simp, by simp, by simp, _, rfl⟩
def onePixel : State := (withMem 0x0300 [0x80]).setDisp (Display.clear.setPixel 31 63 true)
theorem witness_DisplayHasItsWritersAndReaders :
    (∃ t, exec .clearScreen onePixel = .next t ∧ t.disp.pixel 31 63 ≠ onePixel.disp.pixel 31 63) ∧
    (∃ t, exec (.drawSprite 0 0 1) onePixel = .next t ∧ t.disp.pixel 0 0 ≠ onePixel.disp.pixel 0 0) ∧
    ((∀ x y n, Instr.clearScreen ≠ .drawSprite x y n) ∧ ∃ t, exec .clearScreen onePixel = .next t) ∧
    (∃ t, hostCall .reset onePixel = .next t ∧ t.disp.pixel 31 63 ≠ onePixel.disp.pixel 31 63) :=
  ⟨⟨_, rfl, by decide⟩, ⟨_, rfl, by decide⟩, ⟨by simp, _, rfl⟩, ⟨_, rfl, by decide⟩⟩
theorem witness_OnlyTheTabledRegistersAreWritten :
    (∃ t, exec (.loadImmediate 0xF 0x07) State.reset = .next t ∧ t.reg 0xF ≠ State.reset.reg 0xF) ∧
    (∃ t, exec (.loadRegistersFromMemory 0xF) (atI 0x0050) = .next t ∧ t.reg 0 ≠ (atI 0x0050).reg 0) :=
  ⟨⟨_, rfl, by decide⟩, ⟨_, rfl, by decide⟩⟩
/-- Stacks that agree below `SP = 1` and differ above it. -/
theorem witness_DeadStackEntriesAreNeverRead :
    (∃ t, exec (.call 0x300) (atSp 15) = .next t ∧ (t.stk ≠ (atSp 15).stk ∨ t.sp ≠ (atSp 15).sp)) ∧
    (∃ t, exec .ret (atSp 1) = .next t ∧ (t.stk ≠ (atSp 1).stk ∨ t.sp ≠ (atSp 1).sp)) ∧
    ((∀ j : Fin 16, j.val < (oneCall 0x0204).sp.val →
        ((Vector.replicate 16 0xFFFF#16).set 0 0x0204#16)[j] = (oneCall 0x0204).stk[j]) ∧
      ∃ t, exec .ret (oneCall 0x0204) = .next t) :=
  ⟨⟨_, rfl, by decide⟩, ⟨_, rfl, by decide⟩, by decide, _, rfl⟩
theorem witness_OnlyTheTwoStoresChangeMemory :
    (∃ t, exec (.storeBcd 2) (ticking.setI 0xFFFD) = .next t ∧
      t.readByte 0xFFFF ≠ (ticking.setI 0xFFFD).readByte 0xFFFF) ∧
    (∃ t, exec (.storeRegistersToMemory 2) (ticking.setI 0xFFFD) = .next t ∧
      t.readByte 0xFFFF ≠ (ticking.setI 0xFFFD).readByte 0xFFFF) :=
  ⟨⟨_, rfl, by decide⟩, ⟨_, rfl, by decide⟩⟩
/-- Writing the reset byte back gives the empty memory's data. -/
theorem witness_MemoriesThatReadAlikeAreEqual :
    Memory.wf (Memory.write (Memory.write [] 0xFFFF 0x05) 0xFFFF 0x00) = true ∧ Memory.wf [] = true ∧
    (∀ a : Nat, a < 0x10000 →
      Memory.read (Memory.write (Memory.write [] 0xFFFF 0x05) 0xFFFF 0x00) a = Memory.read [] a) :=
  ⟨by decide, by decide, fun _ _ => rfl⟩
theorem witness_SysOnlyAdvances :
    (0x0E1#12 ≠ 0x0E0#12 ∧ 0x0E1#12 ≠ 0x0EE#12) ∧ (0xFFF#12 ≠ 0x0E0#12 ∧ 0xFFF#12 ≠ 0x0EE#12) := by decide
theorem witness_JumpGoesToItsAddress :
    (placeWord State.reset 0x1200).run = .fetching ∧
    fetch (placeWord State.reset 0x1200) = some (0x1#4 ++ 0x200#12) ∧
    (placeWord State.reset 0x1200).pc = (0x200#12).setWidth 16 := by decide
theorem witness_CallPushesItsOwnAddress : (atSp 15).sp.val < 16 ∧ (atSp 16).sp.val = 16 := by decide
theorem witness_ReturnResumesAfterThePoppedAddress :
    (atSp 1).sp.val ≠ 0 ∧ (atSp 16).sp.val ≠ 0 ∧ (atSp 0).sp.val = 0 := by decide
theorem witness_ReturnsResumeInReverseCallOrder :
    State.reset.sp.val + (List.replicate 16 0x300#12).length ≤ 16 ∧
    (1 ≤ 16 ∧ 16 ≤ (List.replicate 16 0x300#12).length) ∧
    List.replicate 17 0x300#12 ≠ [] ∧ State.reset.sp.val + (List.replicate 17 0x300#12).length = 17 := by decide
theorem witness_CarryBorrowAndShiftsOutsideTheFlag : (0x1#4 ≠ 0xF#4 ∧ 0x2#4 ≠ 0x1#4 ∧ 0x2#4 ≠ 0xF#4) := by decide
theorem witness_StoreBcdWritesThreeDigits :
    Memory.wf (atI 0xFFFD).mem = true ∧ (atI 0xFFFD).i.toNat + 2 ≤ 0xFFFF ∧ 0xFFFF < (atI 0xFFFE).i.toNat + 2 := by
  decide
theorem witness_StoreRegistersWritesTheBlock :
    Memory.wf (atI 0xFFF0).mem = true ∧ (atI 0xFFF0).i.toNat + (0xF#4).toNat ≤ 0xFFFF ∧
    (atI 0xFFFF).i.toNat + (0x0#4).toNat ≤ 0xFFFF ∧ 0xFFFF < (atI 0xFFFF).i.toNat + (0x1#4).toNat := by decide
theorem witness_LoadRegistersReadsTheBlock :
    (atI 0xFFFF).i.toNat + (0x0#4).toNat ≤ 0xFFFF ∧ 0xFFFF < (atI 0xFFF1).i.toNat + (0xF#4).toNat := by decide
theorem witness_BlockLoadReadsBackTheBlockStored :
    Memory.wf (atI 0xFFF0).mem = true ∧ (atI 0xFFF0).i.toNat + (0xF#4).toNat ≤ 0xFFFF := by decide
/-- Columns 60 and 124, rows 31 and 63: the same after the wrap. -/
theorem witness_DisplayIndicesAreWrapped :
    ((with2 0 124 1 63).i = (with2 0 60 1 31).i ∧ (with2 0 124 1 63).mem = (with2 0 60 1 31).mem ∧
      (with2 0 124 1 63).disp = (with2 0 60 1 31).disp ∧
      ((with2 0 124 1 63).reg 0).toNat % 64 = ((with2 0 60 1 31).reg 0).toNat % 64 ∧
      ((with2 0 124 1 63).reg 1).toNat % 32 = ((with2 0 60 1 31).reg 1).toNat % 32 ∧
      (∃ t, exec (.drawSprite 0 1 1) (with2 0 60 1 31) = .next t ∧ t.run = .fetching) ∧
      ∃ t, exec (.drawSprite 0 1 1) (with2 0 124 1 63) = .next t) ∧
    (∃ t, exec (.drawSprite 0 1 2) (atI 0xFFFF) = .next t ∧ t.run = .haltedOnFault) :=
  ⟨⟨by decide, by decide, rfl, by decide, by decide, ⟨_, rfl, by decide⟩, _, rfl⟩, ⟨_, rfl, by decide⟩⟩
theorem witness_DrawSpriteXorsTheSpriteOntoTheDisplay :
    (0x0#4).toNat = 0 ∧ (atI 0xFFFF).i.toNat + (0x1#4).toNat - 1 ≤ 0xFFFF ∧
    (1 ≤ (0x2#4).toNat ∧ 0xFFFF < (atI 0xFFFF).i.toNat + (0x2#4).toNat - 1) := by decide
theorem witness_DrawingTwiceRestoresTheDisplay :
    0x0#4 ≠ 0xF#4 ∧ 0xE#4 ≠ 0xF#4 ∧ (atI 0xFFF1).i.toNat + (0xF#4).toNat - 1 ≤ 0xFFFF ∧
    (0x0#4).toNat = 0 ∧ State.reset.disp = Display.clear := ⟨by decide, by decide, by decide, by decide, rfl⟩

/-- Each case of a step from Fetching: no fetch, an illegal word, the three kernel outcomes of `StepReturnsWhatItDid`. -/
theorem witness_StepReturnsWhatItDid :
    ((State.reset.setPc 0xFFFF).run = .fetching ∧ fetch (State.reset.setPc 0xFFFF) = none) ∧
    ((lastWord 0x8128).run = .fetching ∧ fetch (lastWord 0x8128) = some 0x8128 ∧
      decodeWord 0x8128 = .error (.family8 8)) ∧
    ((lastWord 0x00EE).run = .fetching ∧ fetch (lastWord 0x00EE) = some 0x00EE ∧ decodeWord 0x00EE = .ok .ret ∧
      Claims.faultOf .ret (lastWord 0x00EE) = some .stackFault) ∧
    (fetch (lastWord 0xF50A) = some 0xF50A ∧ decodeWord 0xF50A = .ok (.loadFromKeyBlocking 5) ∧
      Claims.faultOf (.loadFromKeyBlocking 5) (lastWord 0xF50A) = none) ∧
    (fetch (lastWord 0x6A3B) = some 0x6A3B ∧ decodeWord 0x6A3B = .ok (.loadImmediate 0xA 0x3B) ∧
      Claims.faultOf (.loadImmediate 0xA 0x3B) (lastWord 0x6A3B) = none) := by decide
/-- The results of those steps, as R197's table gives them. -/
theorem test_step_results :
    (after (step (State.reset.setPc 0xFFFF))).map stepResult = some (.fault (some .memoryFault)) ∧
    (after (step (lastWord 0x8128))).map stepResult = some (.fault (some .decodeFault)) ∧
    (after (step (lastWord 0x00EE))).map stepResult = some (.fault (some .stackFault)) ∧
    (after (step (lastWord 0xF50A))).map stepResult = some .awaitingKey ∧
    (after (step (lastWord 0x6A3B))).map stepResult = some .continue_ := by decide

end Sys2Proof.Tests
end

section
/-! PROOFS. What a kernel evaluation, an instruction and a host call can write, said once as inversion lemmas. -/

namespace Sys2Proof.Machine

open Sys2Proof.Claims

/-! ### What the kernel answers where an instruction may fault (R105, R112) -/

/-- An answer guarded by a fault condition succeeds only where the condition does not hold. -/
theorem guarded_eq_ok {c : Prop} [Decidable c] {f : FaultKind} {w w' : State} {a a' : PcAction}
    (h : (if c then KernelResult.fault f else .ok w a) = .ok w' a') : ¬ c ∧ w' = w ∧ a' = a := by
  split at h <;> cases h
  exact ⟨‹_›, rfl, rfl⟩

/-- A call that succeeds has written the stack and `SP` alone, and jumps. -/
theorem kernel_call_eq_ok {nnn : Addr} {s w : State} {a : PcAction} (h : kernel (.call nnn) s = .ok w a) :
    (∃ e p, w = { s with stk := e, sp := p }) ∧ a = .jump (zextAddr nnn) := by
  obtain ⟨_, hp⟩ | ⟨_, hp⟩ := push_cases s s.pc <;> simp only [kernel, kernelCall, hp] at h <;> cases h
  exact ⟨⟨_, _, rfl⟩, rfl⟩

/-- A return that succeeds has written `SP` alone, and jumps. -/
theorem kernel_ret_eq_ok {s w : State} {a : PcAction} (h : kernel .ret s = .ok w a) :
    (∃ p, w = { s with sp := p }) ∧ ∃ target, a = .jump target := by
  obtain ⟨_, hp⟩ | ⟨_, hp⟩ := pop_cases s <;> simp only [kernel, kernelRet, hp] at h <;> cases h
  exact ⟨⟨_, rfl⟩, _, rfl⟩

/-- Bytes that do not fault end within memory. -/
theorem le_memLimit_of_not_accessFaults {base len : Nat} (hlen : len ≠ 0) (h : ¬ accessFaults base len = true) :
    base + len ≤ memLimit :=
  (accessFaults_eq_false.1 (Bool.eq_false_iff.2 h)).resolve_left hlen

/-! ### What a kernel evaluation can write -/

/-- The states a kernel evaluation of `i` in `s` may hand back, by the update that makes them. -/
inductive Written (i : Instr) (s : State) : State → Prop
  | nothing : Written i s s
  | consultation : Written i s s.nextDraw
  | register {x : Nibble} {b : Byte} (hx : WritesRegister i x) : Written i s (s.setReg x b)
  | randomRegister {x : Nibble} {b : Byte} (hx : WritesRegister i x) : Written i s (s.setReg x b).nextDraw
  | registerAndFlag {x : Nibble} {b c : Byte} (hx : WritesRegister i x) (hvf : WritesRegister i vf) :
      Written i s (s.setRegAndFlag x b c)
  | registerBlock {x : Nibble} (h : i = .loadRegistersFromMemory x) : Written i s (s.loadBlock x)
  | delayTimer {x : Nibble} (h : i = .loadToDelayTimer x) : Written i s (s.setDt (s.reg x))
  | soundTimer {x : Nibble} (h : i = .loadToSoundTimer x) : Written i s (s.setSt (s.reg x))
  | index {a : Word} (h : (∃ nnn, i = .loadIndexImmediate nnn ∧ a.toNat ≤ 0x0FFF) ∨ (∃ x, i = .addToIndex x) ∨
      (∃ x, i = .loadFontAddress x)) : Written i s (s.setI a)
  | digits {x : Nibble} (h : i = .storeBcd x) (hb : dataBase s + 3 ≤ memLimit) :
      Written i s (s.storeBytes (dataBase s) (bcdDigits (s.reg x)))
  | memoryBlock {x : Nibble} (h : i = .storeRegistersToMemory x) (hb : dataBase s + blockLength x ≤ memLimit) :
      Written i s (s.storeBytes (dataBase s) (regBlock s x))
  | clearedDisplay (h : i = .clearScreen) : Written i s (s.setDisp Display.clear)
  | drawnDisplay {x y n : Nibble} {d : Display} {c : Byte} (h : i = .drawSprite x y n) :
      Written i s ((s.setDisp d).setFlag c)
  | pushedStack {a : Addr} {e : Vector Word 16} {p : Fin 17} (h : i = .call a) :
      Written i s { s with stk := e, sp := p }
  | poppedStack {p : Fin 17} (h : i = .ret) : Written i s { s with sp := p }

/-- A kernel evaluation that succeeds makes one of those updates. -/
theorem written_of_kernel {i : Instr} {s w : State} {a : PcAction} (h : kernel i s = .ok w a) : Written i s w := by
  cases i
  case sys | jump | jumpWithOffset | skipEqualImmediate | skipNotEqualImmediate | skipEqualRegisters
      | skipNotEqualRegisters => cases h; exact .nothing
  case skipIfKeyPressed | skipIfKeyNotPressed => cases h; exact .consultation
  case loadImmediate | addImmediate | loadRegister | orRegisters | andRegisters | xorRegisters
      | loadFromDelayTimer => cases h; exact .register (Eq.refl _)
  case randomAndMask => cases h; exact .randomRegister (Eq.refl _)
  case addRegisters | subRegisters | subReverse | shiftRight | shiftLeft =>
    cases h; exact .registerAndFlag (.inl rfl) (.inr rfl)
  case loadToDelayTimer => cases h; exact .delayTimer rfl
  case loadToSoundTimer => cases h; exact .soundTimer rfl
  case loadIndexImmediate nnn =>
    cases h
    have := nnn.isLt
    exact .index (.inl ⟨nnn, rfl, by rw [toNat_zextAddr]; omega⟩)
  case addToIndex x => cases h; exact .index (.inr (.inl ⟨x, rfl⟩))
  case loadFontAddress x => cases h; exact .index (.inr (.inr ⟨x, rfl⟩))
  case clearScreen => cases h; exact .clearedDisplay rfl
  case loadFromKeyBlocking => cases h
  case call =>
    obtain ⟨⟨_, _, rfl⟩, -⟩ := kernel_call_eq_ok h
    exact .pushedStack rfl
  case ret =>
    obtain ⟨⟨_, rfl⟩, -⟩ := kernel_ret_eq_ok h
    exact .poppedStack rfl
  case storeBcd =>
    obtain ⟨hb, rfl, -⟩ := guarded_eq_ok h
    exact .digits rfl (le_memLimit_of_not_accessFaults (by decide) hb)
  case storeRegistersToMemory =>
    obtain ⟨hb, rfl, -⟩ := guarded_eq_ok h
    exact .memoryBlock rfl (le_memLimit_of_not_accessFaults (Nat.succ_ne_zero _) hb)
  case loadRegistersFromMemory =>
    obtain ⟨-, rfl, -⟩ := guarded_eq_ok h
    exact .registerBlock rfl
  case drawSprite =>
    obtain ⟨-, rfl, -⟩ := guarded_eq_ok h
    exact .drawnDisplay rfl

/-- A kernel evaluation makes no fault record (R200: that is the Engine's). -/
theorem Written.faultRec_eq {i : Instr} {s w : State} (h : Written i s w) : w.faultRec = s.faultRec := by
  cases h <;> rfl

/-- A kernel evaluation keeps the canonical form of memory: both stores fit below the end of memory. -/
theorem Written.wf_mem {i : Instr} {s w : State} (h : Written i s w) (hm : Memory.wf s.mem = true) :
    Memory.wf w.mem = true := by
  cases h
  case digits hb => exact wf_writeBytes hm hb
  case memoryBlock hb => exact wf_writeBytes hm (by simpa [blockLength] using hb)
  all_goals exact hm

/-- Everything an instruction can do: commit one of those updates, wait for a key, or halt on a fault. -/
theorem exec_cases {i : Instr} {s t : State} (h : exec i s = .next t) :
    (∃ w a, kernel i s = .ok w a ∧ t = s.commit w a) ∨
    (∃ x, kernel i s = .awaitKey x ∧ t = s.awaitKey x) ∨
    (∃ f, kernel i s = .fault f ∧ t = s.halt f (some (encode i))) := by
  rw [exec_eq_finish_kernel] at h
  obtain ⟨w, a, hk, hf⟩ | ⟨x, hk, hf⟩ | ⟨f, hk, hf⟩ := finish_cases i s (kernel i s) <;> cases h.symm.trans hf
  · exact .inl ⟨w, a, hk, rfl⟩
  · exact .inr (.inl ⟨x, hk, rfl⟩)
  · exact .inr (.inr ⟨f, hk, rfl⟩)

/-- Outside the Engine's own fields `pc`, `RUN`, `KEYDST` and `FAULTREC`, what an instruction leaves is what its
kernel evaluation wrote. -/
theorem written_of_exec {i : Instr} {s t : State} (h : exec i s = .next t) :
    ∃ w p r k f, Written i s w ∧ t = { w with pc := p, run := r, keyDst := k, faultRec := f } := by
  obtain ⟨w, a, hk, rfl⟩ | ⟨x, -, rfl⟩ | ⟨f, -, rfl⟩ := exec_cases h
  · exact ⟨w, _, _, _, _, written_of_kernel hk, rfl⟩
  · exact ⟨s, _, _, _, _, .nothing, rfl⟩
  · exact ⟨s, _, _, _, _, .nothing, rfl⟩

/-! ### What a host call can write (R205) -/

/-- A host call other than `reset` and `step` ticks the timers, loads a program, ends a key wait, or changes nothing. -/
theorem hostCall_cases {c : HostCall} {s t : State} (h : hostCall c s = .next t) :
    c = .reset ∨ c = .step ∨ (c = .tickTimers ∧ t = s.tickTimers) ∨ (∃ bs, t = s.storeBytes progBase.toNat bs) ∨
    (∃ b, t = ((s.setReg s.keyDst b).setPc (s.pc + 2)).setRun .fetching) ∨ t = s := by
  cases c with
  | reset => exact .inl rfl
  | step => exact .inr (.inl rfl)
  | tickTimers => cases h; exact .inr (.inr (.inl ⟨rfl, rfl⟩))
  | loadProgram bs =>
    simp only [hostCall, State.loadProgram] at h
    split at h <;> cases h
    exact .inr (.inr (.inr (.inl ⟨bs, rfl⟩)))
  | supplyKey value =>
    cases h
    by_cases hr : s.run = .haltedOnKey
    · exact .inr (.inr (.inr (.inr (.inl ⟨_, supplyKey_of_waiting hr value⟩))))
    · exact .inr (.inr (.inr (.inr (.inr (supplyKey_of_not_waiting hr value)))))
  | displaySnapshot => cases h; exact .inr (.inr (.inr (.inr (.inr rfl))))

/-- A timer that a tick changes was not 0, so it is one less. -/
theorem toNat_countDown_add_one {b : Byte} (h : countDown b ≠ b) : (countDown b).toNat + 1 = b.toNat := by
  have hne : b.toNat - 1 ≠ b.toNat := fun e => h (BitVec.eq_of_toNat_eq ((toNat_countDown b).trans e))
  rw [toNat_countDown]; omega

end Sys2Proof.Machine
end

section
/-! PROOFS. What every instruction keeps: the invariant, the action table of the program counter (R102), and the
writers of each piece of state (10_state.md R21 to R35), read off the inversion lemmas. -/

namespace Sys2Proof.Machine

open Sys2Proof.Claims

variable {i : Instr} {s t : State}

/-! ### The invariant -/

/-- A halt on a fault meets the invariant: the record is set and `RUN` is `HaltedOnFault`. -/
theorem inv_halt (hm : Memory.wf s.mem = true) (k : FaultKind) (o : Option Word) : (s.halt k o).Inv :=
  ⟨hm, by simp, by simp⟩

/-- An instruction run with no fault record leaves a state that meets the invariant, whatever `RUN` was before. -/
theorem inv_of_exec (h : exec i s = .next t) (hm : Memory.wf s.mem = true)
    (hf : s.faultRec = none) : t.Inv := by
  obtain ⟨w, a, hk, rfl⟩ | ⟨x, -, rfl⟩ | ⟨f, -, rfl⟩ := exec_cases h
  · have hw := written_of_kernel hk
    exact ⟨hw.wf_mem hm, by simp, by simp [hw.faultRec_eq, hf]⟩
  · exact ⟨hm, by simp, by simp [hf]⟩
  · exact inv_halt hm _ _

/-- Every instruction answers a next state. -/
theorem exec_eq_next (i : Instr) (s : State) : ∃ t, exec i s = .next t := by
  rw [exec_eq_finish_kernel]
  obtain ⟨_, _, _, h⟩ | ⟨_, _, h⟩ | ⟨_, _, h⟩ := finish_cases i s (kernel i s) <;> exact ⟨_, h⟩

/-! ### The program counter (R102, R198) -/

/-- The kernel answers only actions its category may return (R102). -/
theorem actionAllowed_of_kernel {w : State} {a : PcAction} (h : kernel i s = .ok w a) :
    ActionAllowed i a := by
  cases i
  case jump | jumpWithOffset => cases h; exact ⟨_, rfl⟩
  case call => exact ⟨_, (kernel_call_eq_ok h).2⟩
  case ret => exact (kernel_ret_eq_ok h).2
  case skipEqualImmediate | skipNotEqualImmediate | skipEqualRegisters | skipNotEqualRegisters | skipIfKeyPressed =>
    cases h; exact ite_eq_or_eq _ _ _
  case skipIfKeyNotPressed => cases h; exact (ite_eq_or_eq _ _ _).symm
  case storeBcd | storeRegistersToMemory | loadRegistersFromMemory | drawSprite =>
    obtain ⟨-, -, rfl⟩ := guarded_eq_ok h
    exact Eq.refl PcAction.advance
  case loadFromKeyBlocking => cases h
  all_goals cases h; exact Eq.refl PcAction.advance

/-! ### Who writes each piece of state -/

theorem eq_loadToDelayTimer_of_dt_ne (h : exec i s = .next t) (hne : t.dt ≠ s.dt) : ∃ x, i = .loadToDelayTimer x := by
  obtain ⟨w, p, r, k, f, hw, rfl⟩ := written_of_exec h
  cases hw
  case delayTimer x hi => exact ⟨x, hi⟩
  all_goals exact absurd rfl hne

theorem eq_loadToSoundTimer_of_st_ne (h : exec i s = .next t) (hne : t.st ≠ s.st) : ∃ x, i = .loadToSoundTimer x := by
  obtain ⟨w, p, r, k, f, hw, rfl⟩ := written_of_exec h
  cases hw
  case soundTimer x hi => exact ⟨x, hi⟩
  all_goals exact absurd rfl hne

theorem writesIndex_of_i_ne (h : exec i s = .next t) (hne : t.i ≠ s.i) :
    (∃ nnn, i = .loadIndexImmediate nnn ∧ t.i.toNat ≤ 0x0FFF) ∨ (∃ x, i = .addToIndex x) ∨
      (∃ x, i = .loadFontAddress x) := by
  obtain ⟨w, p, r, k, f, hw, rfl⟩ := written_of_exec h
  cases hw
  case index hi => exact hi
  all_goals exact absurd rfl hne

theorem writesDisplay_of_disp_ne (h : exec i s = .next t) (hne : t.disp ≠ s.disp) :
    i = .clearScreen ∨ ∃ x y n, i = .drawSprite x y n := by
  obtain ⟨w, p, r, k, f, hw, rfl⟩ := written_of_exec h
  cases hw
  case clearedDisplay hi => exact .inl hi
  case drawnDisplay x y n _ _ hi => exact .inr ⟨x, y, n, hi⟩
  all_goals exact absurd rfl hne

theorem writesStack_of_stk_or_sp_ne (h : exec i s = .next t) (hne : t.stk ≠ s.stk ∨ t.sp ≠ s.sp) :
    i = .ret ∨ ∃ a, i = .call a := by
  obtain ⟨w, p, r, k, f, hw, rfl⟩ := written_of_exec h
  cases hw
  case pushedStack a _ _ hi => exact .inr ⟨a, hi⟩
  case poppedStack hi => exact .inl hi
  all_goals exact absurd hne (by simp)

theorem stk_and_sp_eq_of_exec (hr : i ≠ .ret) (hc : ¬ ∃ a, i = .call a) (h : exec i s = .next t) :
    t.stk = s.stk ∧ t.sp = s.sp := by
  by_contra hne
  exact (writesStack_of_stk_or_sp_ne h (not_and_or.1 hne)).elim hr hc

theorem writesRegister_of_reg_ne {q : Nibble} (h : exec i s = .next t) (hne : t.reg q ≠ s.reg q) :
    WritesRegister i q := by
  obtain ⟨w, p, r, k, f, hw, rfl⟩ := written_of_exec h
  replace hne : w.reg q ≠ s.reg q := hne
  cases hw
  case register x b hx | randomRegister x b hx =>
    by_cases hq : q = x
    · exact hq ▸ hx
    · exact absurd (reg_setReg_ne s b hq) hne
  case registerAndFlag x b c hx hvf =>
    by_cases hf : q = vf
    · exact hf ▸ hvf
    · by_cases hq : q = x
      · exact hq ▸ hx
      · exact absurd (by simp [reg_setRegAndFlag, hf, hq]) hne
  case registerBlock x hi =>
    subst hi
    by_cases hq : q.toNat ≤ x.toNat
    · exact hq
    · exact absurd (by simp [reg_loadBlock, hq]) hne
  case drawnDisplay x y n d c hi =>
    subst hi
    by_cases hf : q = vf
    · exact hf
    · exact absurd ((reg_setFlag _ q c).trans (if_neg hf)) hne
  all_goals exact absurd rfl hne

end Sys2Proof.Machine
end

section
/-! PROOFS. Who reads each piece of state. An instruction does not read a field when its outcome is the same whatever the
field holds, but for the field itself. A blanking `m` forgets the field; two states agree on all the rest when `m` makes
them equal. -/

namespace Sys2Proof.Machine

variable {i : Instr} {s t : State}

/-- The kernel's answer with its written state blanked. -/
def KernelResult.blank (m : State → State) : KernelResult → KernelResult
  | .ok w a => .ok (m w) a
  | .awaitKey x => .awaitKey x
  | .fault f => .fault f

/-- `m` forgets only a field that the end of a step leaves alone. -/
structure Blanking (m : State → State) : Prop where
  commit (s w : State) (a : PcAction) : m (s.commit w a) = (m s).commit (m w) a
  awaitKey (s : State) (x : Nibble) : m (s.awaitKey x) = (m s).awaitKey x
  halt (s : State) (f : FaultKind) (o : Option Word) : m (s.halt f o) = (m s).halt f o

/-- Two states that agree but for the blanked field, and on which the kernel's answers do, have next states that do. -/
theorem Blanking.exec_congr {m : State → State} (hm : Blanking m) {s' : State}
    (hk : (kernel i s').blank m = (kernel i s).blank m) (hs : m s' = m s) (h : exec i s = .next t) :
    ∃ t', exec i s' = .next t' ∧ m t' = m t := by
  obtain ⟨w, a, e, rfl⟩ | ⟨x, e, rfl⟩ | ⟨f, e, rfl⟩ := exec_cases h <;> rw [e] at hk <;>
    cases e' : kernel i s' <;> rw [e'] at hk <;> simp only [KernelResult.blank, reduceCtorEq] at hk
  case ok w' a' =>
    obtain ⟨hw, rfl⟩ := KernelResult.ok.inj hk
    exact ⟨_, exec_of_ok e', by rw [hm.commit, hm.commit, hs, hw]⟩
  case awaitKey x' =>
    cases hk
    exact ⟨_, exec_of_awaitKey e', by rw [hm.awaitKey, hm.awaitKey, hs]⟩
  case fault f' =>
    cases hk
    exact ⟨_, exec_of_fault e', by rw [hm.halt, hm.halt, hs]⟩

/-- Answers under the same fault condition agree where their written states do. -/
theorem blank_guarded_congr {m : State → State} {c : Prop} [Decidable c] {f : FaultKind} {w w' : State} {a : PcAction}
    (h : m w' = m w) :
    (if c then KernelResult.fault f else .ok w' a).blank m = (if c then KernelResult.fault f else .ok w a).blank m := by
  split
  · rfl
  · exact congrArg (KernelResult.ok · a) h

/-- A call reads `pc`, `SP` and the stack, and writes the last two. -/
theorem blank_kernel_call_congr {m : State → State} {s' : State} {nnn : Addr} (hpc : s'.pc = s.pc) (hsp : s'.sp = s.sp)
    (hstk : s'.stk = s.stk) (hm : ∀ e p, m { s' with stk := e, sp := p } = m { s with stk := e, sp := p }) :
    (kernel (.call nnn) s').blank m = (kernel (.call nnn) s).blank m := by
  obtain ⟨h, hp⟩ | ⟨h, hp⟩ := push_cases s s.pc
  · simp only [kernel, kernelCall, hp, push_of_full (hsp ▸ h : s'.sp.val = 16), KernelResult.blank]
  · simp only [kernel, kernelCall, hp, push_of_lt (hsp ▸ h : s'.sp.val < 16), KernelResult.blank]
    rw [hm]
    simp only [hpc, hsp, hstk]

/-- A return reads `SP` and the stack, and writes `SP`. -/
theorem blank_kernel_ret_congr {m : State → State} {s' : State} (hsp : s'.sp = s.sp) (hstk : s'.stk = s.stk)
    (hm : ∀ p, m { s' with sp := p } = m { s with sp := p }) :
    (kernel .ret s').blank m = (kernel .ret s).blank m := by
  obtain ⟨h, hp⟩ | ⟨h, hp⟩ := pop_cases s
  · simp only [kernel, kernelRet, hp, pop_of_empty (hsp ▸ h : s'.sp.val = 0), KernelResult.blank]
  · simp only [kernel, kernelRet, hp, pop_of_pos (hsp ▸ h : s'.sp.val ≠ 0), KernelResult.blank]
    rw [hm]
    simp only [hsp, hstk]

theorem blanking_setDt : Blanking (·.setDt 0) :=
  ⟨fun _ _ _ => rfl, fun _ _ => rfl, fun _ _ _ => rfl⟩

theorem blank_kernel_setDt (hi : ∀ x, i ≠ .loadFromDelayTimer x) (s : State) (b : Byte) :
    (kernel i (s.setDt b)).blank (·.setDt 0) = (kernel i s).blank (·.setDt 0) := by
  cases i
  case loadFromDelayTimer x => exact absurd rfl (hi x)
  case call => exact blank_kernel_call_congr rfl rfl rfl fun _ _ => rfl
  case ret => exact blank_kernel_ret_congr rfl rfl fun _ => rfl
  case storeBcd | storeRegistersToMemory | loadRegistersFromMemory | drawSprite => exact blank_guarded_congr rfl
  all_goals rfl

theorem blanking_setSt : Blanking (·.setSt 0) :=
  ⟨fun _ _ _ => rfl, fun _ _ => rfl, fun _ _ _ => rfl⟩

theorem blank_kernel_setSt (i : Instr) (s : State) (b : Byte) :
    (kernel i (s.setSt b)).blank (·.setSt 0) = (kernel i s).blank (·.setSt 0) := by
  cases i
  case call => exact blank_kernel_call_congr rfl rfl rfl fun _ _ => rfl
  case ret => exact blank_kernel_ret_congr rfl rfl fun _ => rfl
  case storeBcd | storeRegistersToMemory | loadRegistersFromMemory | drawSprite => exact blank_guarded_congr rfl
  all_goals rfl

theorem blanking_setI : Blanking (·.setI 0) :=
  ⟨fun _ _ _ => rfl, fun _ _ => rfl, fun _ _ _ => rfl⟩

theorem blank_kernel_setI (h₁ : ∀ x, i ≠ .addToIndex x) (h₂ : ∀ x y n, i ≠ .drawSprite x y n)
    (h₃ : ∀ x, i ≠ .storeBcd x) (h₄ : ∀ x, i ≠ .storeRegistersToMemory x) (h₅ : ∀ x, i ≠ .loadRegistersFromMemory x)
    (s : State) (a : Word) : (kernel i (s.setI a)).blank (·.setI 0) = (kernel i s).blank (·.setI 0) := by
  cases i
  case addToIndex x => exact absurd rfl (h₁ x)
  case drawSprite x y n => exact absurd rfl (h₂ x y n)
  case storeBcd x => exact absurd rfl (h₃ x)
  case storeRegistersToMemory x => exact absurd rfl (h₄ x)
  case loadRegistersFromMemory x => exact absurd rfl (h₅ x)
  case call => exact blank_kernel_call_congr rfl rfl rfl fun _ _ => rfl
  case ret => exact blank_kernel_ret_congr rfl rfl fun _ => rfl
  all_goals rfl

theorem blanking_setDisp : Blanking (·.setDisp Display.clear) :=
  ⟨fun _ _ _ => rfl, fun _ _ => rfl, fun _ _ _ => rfl⟩

theorem blank_kernel_setDisp (hi : ∀ x y n, i ≠ .drawSprite x y n) (s : State) (d : Display) :
    (kernel i (s.setDisp d)).blank (·.setDisp Display.clear) = (kernel i s).blank (·.setDisp Display.clear) := by
  cases i
  case drawSprite x y n => exact absurd rfl (hi x y n)
  case call => exact blank_kernel_call_congr rfl rfl rfl fun _ _ => rfl
  case ret => exact blank_kernel_ret_congr rfl rfl fun _ => rfl
  case storeBcd | storeRegistersToMemory | loadRegistersFromMemory => exact blank_guarded_congr rfl
  all_goals rfl

/-- The state with other stack entries, `SP` as it is. -/
def State.setStk (s : State) (e : Vector Word 16) : State := { s with stk := e }

theorem blanking_setStk : Blanking (·.setStk (.replicate 16 0)) :=
  ⟨fun _ _ _ => rfl, fun _ _ => rfl, fun _ _ _ => rfl⟩

theorem blank_kernel_setStk (hr : i ≠ .ret) (hc : ∀ a, i ≠ .call a) (s : State) (e : Vector Word 16) :
    (kernel i (s.setStk e)).blank (·.setStk (.replicate 16 0)) = (kernel i s).blank (·.setStk (.replicate 16 0)) := by
  cases i
  case ret => exact absurd rfl hr
  case call a => exact absurd rfl (hc a)
  case storeBcd | storeRegistersToMemory | loadRegistersFromMemory | drawSprite => exact blank_guarded_congr rfl
  all_goals rfl

/-- A call with other dead entries pushes onto the same live ones. -/
theorem call_ignores_dead_entries {a : Addr} {e : Vector Word 16}
    (he : ∀ j : Fin 16, j.val < s.sp.val → e[j] = s.stk[j]) (h : exec (.call a) s = .next t) :
    ∃ t', exec (.call a) { s with stk := e } = .next t' ∧ { t' with stk := t.stk } = t ∧
      (∀ j : Fin 16, j.val < t.sp.val → t'.stk[j] = t.stk[j]) := by
  by_cases hsp : s.sp.val < 16
  · cases h.symm.trans (exec_call_of_lt hsp a)
    refine ⟨_, exec_call_of_lt (s := { s with stk := e }) hsp a, rfl, fun j hj => ?_⟩
    have hj : j.val < s.sp.val + 1 := hj
    by_cases hjs : s.sp.val = j.val
    · simp [hjs]
    · simpa [Vector.getElem_set, hjs] using he j (by omega)
  · have hfull : s.sp.val = 16 := by omega
    cases h.symm.trans (exec_call_of_full hfull a)
    exact ⟨_, exec_call_of_full (s := { s with stk := e }) hfull a, rfl, he⟩

/-- A return with other dead entries pops the same live one. -/
theorem ret_ignores_dead_entries {e : Vector Word 16} (he : ∀ j : Fin 16, j.val < s.sp.val → e[j] = s.stk[j])
    (h : exec .ret s = .next t) :
    ∃ t', exec .ret { s with stk := e } = .next t' ∧ { t' with stk := t.stk } = t ∧
      (∀ j : Fin 16, j.val < t.sp.val → t'.stk[j] = t.stk[j]) := by
  by_cases hsp : s.sp.val = 0
  · cases h.symm.trans (exec_ret_of_empty hsp)
    exact ⟨_, exec_ret_of_empty (s := { s with stk := e }) hsp, rfl, he⟩
  · cases h.symm.trans (exec_ret_of_pos hsp)
    have htop := he ⟨s.sp.val - 1, by omega⟩ (by simp; omega)
    refine ⟨_, exec_ret_of_pos (s := { s with stk := e }) hsp, ?_, fun j hj => ?_⟩
    · simp only [Fin.getElem_fin] at htop
      simp only [State.commit, htop]
    · exact he j (by have hj : j.val < s.sp.val - 1 := hj; omega)

end Sys2Proof.Machine
end

section
/-! PROOFS. The laws of the display's wrapped indices, of canonical memories, and of the reset image. -/

namespace Sys2Proof.Machine

open Sys2Proof.Claims

/-! ### Wrapped display indices (R33) -/

theorem setPixel_mod (d : Display) (r c : Nat) (p : Bool) : d.setPixel (r % 32) (c % 64) p = d.setPixel r c p := by
  simp only [Display.setPixel, Nat.mod_mod]

theorem drawPixel_mod (r c : Nat) (sprite : Bool) (acc : Display × Bool) :
    drawPixel (r % 32) (c % 64) sprite acc = drawPixel r c sprite acc := by
  simp only [drawPixel, pixel_mod, setPixel_mod]

/-- A draw of a pixel depends on the wrapped indices alone. -/
theorem drawPixel_congr {r r' c c' : Nat} (hr : r' % 32 = r % 32) (hc : c' % 64 = c % 64) :
    drawPixel r' c' = drawPixel r c := by
  funext sprite acc
  rw [← drawPixel_mod r', ← drawPixel_mod r, hr, hc]

theorem drawRow_congr {r r' x x' : Nat} (hr : r' % 32 = r % 32) (hx : x' % 64 = x % 64) :
    drawRow r' x' = drawRow r x := by
  funext b acc
  have hpixel (k : Nat) : drawPixel r' (x' + k) = drawPixel r (x + k) := drawPixel_congr hr (Nat.ModEq.add_right k hx)
  simp only [drawRow, hpixel]

/-- So a whole draw depends on its wrapped start coordinates. -/
theorem drawRows_congr {x x' y y' : Nat} (hx : x' % 64 = x % 64) (hy : y' % 32 = y % 32) (m : Memory) (base n : Nat)
    (d : Display) : drawRows m base x' y' n d = drawRows m base x y n d := by
  have hrow (k : Nat) : drawRow (y' + k) x' = drawRow (y + k) x := drawRow_congr (Nat.ModEq.add_right k hy) hx
  simp only [drawRows, hrow]

/-- Everything a draw can do. -/
theorem exec_drawSprite_cases {x y n : Nibble} {s t : State} (h : exec (.drawSprite x y n) s = .next t) :
    (accessFaults (dataBase s) n.toNat = true ∧ t = s.halt .memoryFault (some (encode (.drawSprite x y n)))) ∨
    (accessFaults (dataBase s) n.toNat = false ∧
      ∃ drawn, drawn = drawRows s.mem (dataBase s) (s.reg x).toNat (s.reg y).toNat n.toNat s.disp ∧
        t = s.commit ((s.setDisp drawn.1).setFlag (flagByte drawn.2)) .advance) := by
  cases hb : accessFaults (dataBase s) n.toNat
  · cases h.symm.trans (exec_drawSprite_of_fits hb x y)
    exact .inr ⟨rfl, _, rfl, rfl⟩
  · cases h.symm.trans (exec_drawSprite_of_faults hb x y)
    exact .inl ⟨rfl, rfl⟩

/-! ### Canonical memories -/

theorem wfFrom_cons {lo k : Nat} {b : Byte} {m : Memory} :
    Memory.wfFrom lo ((k, b) :: m) = true ↔
      lo ≤ k ∧ k < memLimit ∧ b ≠ resetByte k ∧ Memory.wfFrom (k + 1) m = true := by
  simp [Memory.wfFrom, and_assoc]

/-- A canonical memory that reads at `a` as it does not after reset lists an address at or below `a` first. -/
theorem head_le_of_read_ne {lo k a : Nat} {b : Byte} {m : Memory} (h : Memory.wfFrom lo ((k, b) :: m) = true)
    (ha : Memory.read ((k, b) :: m) a ≠ resetByte a) : k ≤ a := by
  by_contra hlt
  have hk : Memory.wfFrom k ((k, b) :: m) = true := wfFrom_cons.2 ⟨le_rfl, (wfFrom_cons.1 h).2⟩
  exact ha (read_of_wfFrom hk (by omega))

theorem read_head (k : Nat) (b : Byte) (m : Memory) : Memory.read ((k, b) :: m) k = b := if_pos rfl

/-- A memory that lists an address does not read like the reset image. -/
theorem exists_read_ne_of_cons {lo : Nat} {c : Host.Cell} {m : Memory} (h : Memory.wfFrom lo (c :: m) = true) :
    ∃ a, a < memLimit ∧ Memory.read (c :: m) a ≠ Memory.read [] a := by
  obtain ⟨-, hk, hb, -⟩ := wfFrom_cons.1 h
  exact ⟨c.1, hk, by rw [read_head]; exact hb⟩

/-- Canonical memories that read alike are equal: each lists its first address at or below the other's, with the byte
both read there, and what is listed after it reads alike again. -/
theorem memory_ext_of_wfFrom {m m' : Memory} {lo : Nat} (hm : Memory.wfFrom lo m = true)
    (hm' : Memory.wfFrom lo m' = true) (h : ∀ a, a < memLimit → Memory.read m a = Memory.read m' a) : m = m' := by
  induction m generalizing lo m' with
  | nil =>
    cases m' with
    | nil => rfl
    | cons c' m' =>
      obtain ⟨a, ha, hne⟩ := exists_read_ne_of_cons hm'
      exact absurd (h a ha).symm hne
  | cons c m ih =>
    cases m' with
    | nil =>
      obtain ⟨a, ha, hne⟩ := exists_read_ne_of_cons hm
      exact absurd (h a ha) hne
    | cons c' m' =>
      obtain ⟨k, b⟩ := c
      obtain ⟨k', b'⟩ := c'
      obtain ⟨-, hk, hb, hwf⟩ := wfFrom_cons.1 hm
      obtain ⟨-, hk', hb', hwf'⟩ := wfFrom_cons.1 hm'
      have hle : k' ≤ k := head_le_of_read_ne hm' (by rwa [← h k hk, read_head])
      have hge : k ≤ k' := head_le_of_read_ne hm (by rwa [h k' hk', read_head])
      obtain rfl : k = k' := by omega
      have hbyte : b = b' := by simpa only [read_head] using h k hk
      have htail : m = m' := ih hwf hwf' fun a ha => by
        by_cases hak : a ≤ k
        · rw [read_of_wfFrom hwf (by omega), read_of_wfFrom hwf' (by omega)]
        · have hne : k ≠ a := by omega
          simpa only [Memory.read, if_neg hne] using h a ha
      rw [hbyte, htail]

/-! ### The reset image -/

/-- The font bytes of the model are those of R222. -/
theorem fontTable_eq : fontTable = glyphBytesOfR222 := rfl

/-- The reset image: the font at 0x050 to 0x09F, zero elsewhere. -/
theorem resetByte_eq (a : Nat) :
    resetByte a = if 0x050 ≤ a ∧ a ≤ 0x09F then glyphBytesOfR222.getD (a - 0x050) 0x00#8 else 0x00#8 := by
  have hlen : glyphBytesOfR222.length = 80 := rfl
  simp only [resetByte, fontTable_eq, fontLoad]
  by_cases hlo : 0x050 ≤ a
  · by_cases hhi : a ≤ 0x09F
    · simp [hlo, hhi]
    · simp only [hlo, hhi, and_false, if_true, if_false]
      exact List.getD_eq_default _ _ (by omega)
  · simp [hlo]

end Sys2Proof.Machine
end

section
/-! PROOFS. The statements about the state (10_state.md), each from the lemmas above. -/

namespace Sys2Proof.Proofs

open Sys2Proof Sys2Proof.Machine Sys2Proof.Claims

/-- Settles O13: the five cases of a step, each from a state that meets the invariant. -/
theorem everyStepKeepsTheInvariant : Obligations.EveryStepKeepsTheInvariant := by
  intro s hs
  have ⟨hm, hrun, hrec⟩ := hs
  obtain ⟨hx, -⟩ | ⟨-, h⟩ | ⟨-, -, h⟩ | ⟨w, e, -, -, -, h⟩ | ⟨w, i, hr, -, -, h⟩ := step_cases s
  · exact absurd hx hrun
  · exact ⟨s, h, hs⟩
  · exact ⟨_, h, inv_halt hm _ _⟩
  · exact ⟨_, h, inv_halt hm _ _⟩
  · obtain ⟨t, ht⟩ := exec_eq_next i (s.setRun .executing)
    have hnone : s.faultRec = none := by simpa [hr] using hrec
    exact ⟨t, h.trans ht, inv_of_exec ht hm hnone⟩

/-- Settles O16: only a commit moves `pc`, by the kernel's action; a wait and a halt keep it. -/
theorem pcMovesByTheCategorysAction : Obligations.PcMovesByTheCategorysAction := by
  intro i s t h
  obtain ⟨w, a, hk, rfl⟩ | ⟨x, -, rfl⟩ | ⟨f, -, rfl⟩ := exec_cases h
  · refine ⟨fun _ => ⟨a, actionAllowed_of_kernel hk, ?_, ?_, ?_⟩, fun hne => absurd rfl hne⟩
    · rintro rfl; simp
    · rintro rfl; simp
    · rintro target rfl; rfl
  · exact ⟨fun hr => by simp at hr, fun _ => rfl⟩
  · exact ⟨fun hr => by simp at hr, fun _ => rfl⟩

/-- Settles O23: the frame and the noninterference lemma of `DT`. -/
theorem delayTimerHasOneWriterAndOneReader : Obligations.DelayTimerHasOneWriterAndOneReader := by
  refine ⟨fun _ _ => rfl, fun x s => ⟨_, rfl, reg_setReg_same s x s.dt, fun r hr => reg_setReg_ne s _ hr, rfl⟩,
    fun _ _ _ => eq_loadToDelayTimer_of_dt_ne, ?_, ?_⟩
  · intro i s t b hi h
    obtain ⟨t', h', ht⟩ := blanking_setDt.exec_congr (blank_kernel_setDt hi s b) rfl h
    exact ⟨t', h', congrArg (·.setDt t.dt) ht⟩
  · intro c s t h hne
    obtain hc | hc | ⟨hc, rfl⟩ | ⟨_, rfl⟩ | ⟨_, rfl⟩ | rfl := hostCall_cases h
    · exact .inr (.inl hc)
    · exact .inr (.inr hc)
    · exact .inl ⟨hc, toNat_countDown_add_one hne⟩
    all_goals exact absurd rfl hne

/-- Settles O24: the frame and the noninterference lemma of `ST`. -/
theorem soundTimerHasOneWriterAndNoReader : Obligations.SoundTimerHasOneWriterAndNoReader := by
  refine ⟨fun _ _ => rfl, fun _ _ _ => eq_loadToSoundTimer_of_st_ne, ?_, ?_⟩
  · intro i s t b h
    obtain ⟨t', h', ht⟩ := blanking_setSt.exec_congr (blank_kernel_setSt i s b) rfl h
    exact ⟨t', h', congrArg (·.setSt t.st) ht⟩
  · intro c s t h hne
    obtain hc | hc | ⟨hc, rfl⟩ | ⟨_, rfl⟩ | ⟨_, rfl⟩ | rfl := hostCall_cases h
    · exact .inr (.inl hc)
    · exact .inr (.inr hc)
    · exact .inl ⟨hc, toNat_countDown_add_one hne⟩
    all_goals exact absurd rfl hne

/-- Settles O25: the frame and the noninterference lemma of `I`; add-to-index writes no register. -/
theorem indexRegisterHasItsWritersAndReaders : Obligations.IndexRegisterHasItsWritersAndReaders := by
  refine ⟨fun _ _ _ => writesIndex_of_i_ne, ?_, ?_⟩
  · intro i s t a h₁ h₂ h₃ h₄ h₅ h
    obtain ⟨t', h', ht⟩ := blanking_setI.exec_congr (blank_kernel_setI h₁ h₂ h₃ h₄ h₅ s a) rfl h
    exact ⟨t', h', congrArg (·.setI t.i) ht⟩
  · intro x s t a h
    cases h
    exact ⟨_, rfl, rfl, rfl⟩

/-- Settles O26: the frame and the noninterference lemma of the display. -/
theorem displayHasItsWritersAndReaders : Obligations.DisplayHasItsWritersAndReaders := by
  refine ⟨fun _ _ _ => writesDisplay_of_disp_ne, ?_, ?_, fun _ => ⟨rfl, rfl⟩⟩
  · intro i s t d hi h
    obtain ⟨t', h', ht⟩ := blanking_setDisp.exec_congr (blank_kernel_setDisp hi s d) rfl h
    exact ⟨t', h', congrArg (·.setDisp t.disp) ht⟩
  · intro c s t h hne
    obtain hc | hc | ⟨-, rfl⟩ | ⟨_, rfl⟩ | ⟨_, rfl⟩ | rfl := hostCall_cases h
    · exact .inl hc
    · exact .inr hc
    all_goals exact absurd rfl hne

/-- Settles O27: each update of the kernel goes to a register of the table. -/
theorem onlyTheTabledRegistersAreWritten : Obligations.OnlyTheTabledRegistersAreWritten :=
  fun _ _ _ _ => writesRegister_of_reg_ne

/-- Settles O28: call and return read no dead entry, and no other instruction reads or writes the stack. -/
theorem deadStackEntriesAreNeverRead : Obligations.DeadStackEntriesAreNeverRead := by
  refine ⟨fun _ _ _ => writesStack_of_stk_or_sp_ne, ?_⟩
  intro i s t e he h
  by_cases hr : i = .ret
  · subst hr
    exact ret_ignores_dead_entries he h
  by_cases hc : ∃ a, i = .call a
  · obtain ⟨a, rfl⟩ := hc
    exact call_ignores_dead_entries he h
  obtain ⟨t', h', ht⟩ := blanking_setStk.exec_congr (blank_kernel_setStk hr (not_exists.1 hc) s e) rfl h
  obtain ⟨hstk, hsp⟩ := stk_and_sp_eq_of_exec hr hc h
  obtain ⟨hstk', -⟩ := stk_and_sp_eq_of_exec hr hc h'
  refine ⟨t', h', congrArg (·.setStk t.stk) ht, fun j hj => ?_⟩
  rw [hstk', hstk]
  exact he j (hsp ▸ hj)

/-- Settles O53: a draw is a function of its wrapped coordinates, and its one halt is the memory bound. -/
theorem displayIndicesAreWrapped : Obligations.DisplayIndicesAreWrapped := by
  refine ⟨fun d r c p => ⟨(pixel_mod d r c).symm, (setPixel_mod d r c p).symm⟩, ?_, ?_⟩
  · intro x y n s s' t t' hi hmem hdisp hx hy h h'
    have hbase : dataBase s' = dataBase s := congrArg BitVec.toNat hi
    obtain ⟨hb, rfl⟩ | ⟨hb, drawn, hd, rfl⟩ := exec_drawSprite_cases h <;>
      obtain ⟨hb', rfl⟩ | ⟨hb', drawn', hd', rfl⟩ := exec_drawSprite_cases h'
    · exact ⟨hdisp, rfl, fun hr => by simp at hr⟩
    · simp [hbase, hb] at hb'
    · simp [hbase, hb] at hb'
    · have hdrawn : drawn' = drawn := by rw [hd', hd, hbase, hmem, hdisp, drawRows_congr hx hy]
      subst hdrawn
      exact ⟨rfl, rfl, fun _ => (reg_setReg_same _ vf _).trans (reg_setReg_same _ vf _).symm⟩
  · intro x y n s t h hr
    obtain ⟨hb, -⟩ | ⟨-, _, -, rfl⟩ := exec_drawSprite_cases h
    · obtain ⟨hn, hlimit⟩ := accessFaults_eq_true.1 hb
      exact ⟨hn, hlimit⟩
    · simp at hr

/-- Settles O30: canonical memory from address 0 on. -/
theorem memoriesThatReadAlikeAreEqual : Obligations.MemoriesThatReadAlikeAreEqual :=
  fun _ _ => memory_ext_of_wfFrom

/-- Settles O12: the reset memory lists nothing, and there is no fault record. -/
theorem resetMeetsTheInvariant : Obligations.ResetMeetsTheInvariant :=
  ⟨rfl, by decide, by decide⟩

/-- Settles O18: each value of the table by computation, the font bytes by `resetByte_eq`. -/
theorem resetLeavesTheValuesOfTheTable : Obligations.ResetLeavesTheValuesOfTheTable :=
  ⟨fun r => by simp [State.reg, State.reset], rfl, rfl, rfl, rfl, rfl, rfl, fun j => by simp [State.reset],
    pixel_clear, rfl, rfl, rfl, resetByte_eq, fun _ => rfl⟩

end Sys2Proof.Proofs
end

section
/-! PROOFS. Bytes stored in a state and read back from it (20_memory.md R53, R57, R58): inside a store the byte stored,
outside it the old byte. -/

namespace Sys2Proof.Machine

variable {s t : State}

/-! ### Stored bytes -/

theorem readByte_storeBytes_outside {base a : Nat} {bs : List Byte} (h : a < base ∨ base + bs.length ≤ a) :
    (s.storeBytes base bs).readByte a = s.readByte a :=
  read_writeBytes_outside h

theorem readByte_storeBytes_inside {base k : Nat} {bs : List Byte} (hm : Memory.wf s.mem = true)
    (hb : base + bs.length ≤ memLimit) (hk : k < bs.length) : (s.storeBytes base bs).readByte (base + k) = bs[k] :=
  read_writeBytes_inside hm hb hk

/-- A byte that a store changes is one of those it stores. -/
theorem mem_range_of_readByte_ne {base a : Nat} {bs : List Byte}
    (h : (s.storeBytes base bs).readByte a ≠ s.readByte a) : base ≤ a ∧ a < base + bs.length := by
  by_contra hout
  exact h (readByte_storeBytes_outside (by omega))

/-- A byte that an instruction changes belongs to one of the two stores, within the bytes it stores (R57, R58). -/
theorem writesMemory_of_readByte_ne {i : Instr} {a : Nat} (h : exec i s = .next t) (hne : t.readByte a ≠ s.readByte a) :
    (∃ x, i = .storeBcd x ∧ dataBase s ≤ a ∧ a ≤ dataBase s + 2) ∨
    (∃ x, i = .storeRegistersToMemory x ∧ dataBase s ≤ a ∧ a ≤ dataBase s + x.toNat) := by
  obtain ⟨w, p, r, k, f, hw, rfl⟩ := written_of_exec h
  cases hw
  case digits x hi hb =>
    obtain ⟨hlo, hhi⟩ := mem_range_of_readByte_ne hne
    rw [length_bcdDigits] at hhi
    exact .inl ⟨x, hi, hlo, by omega⟩
  case memoryBlock x hi hb =>
    obtain ⟨hlo, hhi⟩ := mem_range_of_readByte_ne hne
    rw [length_regBlock] at hhi
    exact .inr ⟨x, hi, hlo, by omega⟩
  all_goals exact absurd rfl hne

/-! ### The word a fetch reads (R53) -/

theorem toNat_wordOfBytes (hi lo : Byte) : (wordOfBytes hi lo).toNat = hi.toNat * 256 + lo.toNat :=
  toNat_append_add hi lo

/-- The fetch from 0x200 after a program load reads the program's first two bytes, high byte first. -/
theorem fetch_storeBytes_progBase {bs : List Byte} (hm : Memory.wf s.mem = true) (hfit : bs.length ≤ 65024)
    (hlen : 2 ≤ bs.length) (hpc : s.pc = progBase) :
    fetch (s.storeBytes progBase.toNat bs) = some (wordOfBytes bs[0] bs[1]) := by
  have hlt : (s.storeBytes progBase.toNat bs).pc.toNat < 0xFFFF := by rw [pc_storeBytes, hpc]; decide
  have hhigh := readByte_storeBytes_inside hm (programEnd_le hfit) (k := 0) (by omega)
  have hlow := readByte_storeBytes_inside hm (programEnd_le hfit) (k := 1) (by omega)
  rw [fetch_of_lt hlt, pc_storeBytes, hpc, hlow, ← hhigh, Nat.add_zero]

/-! ### The register block (R164, R165) -/

/-- A block store puts `V[r]` at its base plus `r`. -/
theorem readByte_storeBytes_regBlock {base : Nat} {x r : Nibble} (hm : Memory.wf s.mem = true)
    (hb : base + blockLength x ≤ memLimit) (hr : r.toNat ≤ x.toNat) :
    (s.storeBytes base (regBlock s x)).readByte (base + r.toNat) = s.reg r := by
  have hlen : (regBlock s x).length = blockLength x := length_regBlock s x
  rw [readByte_storeBytes_inside hm (hlen ▸ hb) (by rw [length_regBlock]; omega), getElem_regBlock,
    BitVec.ofNat_toNat, BitVec.setWidth_eq]

end Sys2Proof.Machine
end

section
/-! PROOFS. The statements about memory (20_memory.md), each from the lemmas above. -/

namespace Sys2Proof.Proofs

open Sys2Proof Sys2Proof.Machine

/-- Settles O19: a program load is a store at 0x200 that fits exactly up to 65024 bytes. -/
theorem programLoadPlacesTheBytes : Obligations.ProgramLoadPlacesTheBytes := by
  intro bs s hm
  refine ⟨fun hfit => ?_, fun hlong => loadProgram_of_too_long hlong s⟩
  have hend := programEnd_le hfit
  exact ⟨s.storeBytes progBase.toNat bs, loadProgram_of_fits hfit s,
    fun k hk => readByte_storeBytes_inside hm hend hk, fun a ha => readByte_storeBytes_outside ha, rfl,
    wf_writeBytes hm hend,
    fun hlen hpc => ⟨_, fetch_storeBytes_progBase hm hfit hlen hpc, toNat_wordOfBytes _ _⟩⟩

/-- Settles O29: of the kernel's updates only the two stores touch memory. -/
theorem onlyTheTwoStoresChangeMemory : Obligations.OnlyTheTwoStoresChangeMemory :=
  fun _ _ _ _ => writesMemory_of_readByte_ne

/-- Settles O51: the load finds `V[r]` where the store put it, and keeps the registers above `x`. -/
theorem blockLoadReadsBackTheBlockStored : Obligations.BlockLoadReadsBackTheBlockStored := by
  intro x s hm hend
  have hb : dataBase s + blockLength x ≤ memLimit := Nat.succ_le_succ hend
  have hfits : accessFaults (dataBase s) (blockLength x) = false := accessFaults_eq_false.2 (.inr hb)
  refine ⟨_, exec_storeRegisters_of_fits hfits, fun v => ⟨_, exec_loadRegisters_of_fits hfits, ?_, ?_, rfl, rfl⟩⟩
  · intro r hr
    exact (reg_loadBlock _ x r).trans ((if_pos hr).trans (readByte_storeBytes_regBlock hm hb hr))
  · intro r hr
    exact (reg_loadBlock _ x r).trans (if_neg (Nat.not_le.2 hr))

end Sys2Proof.Proofs
end

section
/-! PROOFS. The Decoder inverted (30_encoding.md R79 to R85): what a decoded instruction, a rejected word and a matched
row of the map say about the fields of the word. -/

namespace Sys2Proof

variable {w : Word} {i : Instr} {e : DecodeReject}

/-! ### A word whose fixed fields are known, as its pattern in the map -/

theorem hnnn_of_fieldHigh {h : Nibble} (hw : fieldHigh w = h) : h ++ fieldNnn w = w := hw ▸ word_of_hnnn w

theorem hxkk_of_fieldHigh {h : Nibble} (hw : fieldHigh w = h) : h ++ fieldX w ++ fieldKk w = w := hw ▸ word_of_hxkk w

theorem hxyn_of_fieldHigh {h : Nibble} (hw : fieldHigh w = h) : h ++ fieldX w ++ fieldY w ++ fieldN w = w :=
  hw ▸ word_of_hxyn w

/-! ### The fields overlap (R72) -/

theorem fieldKk_eq_append (w : Word) : fieldKk w = fieldY w ++ fieldN w := by
  apply BitVec.eq_of_toNat_eq
  rw [toNat_append_add, toNat_fieldKk, toNat_fieldY, toNat_fieldN]
  omega

theorem fieldNnn_eq_append (w : Word) : fieldNnn w = fieldX w ++ fieldY w ++ fieldN w := by
  apply BitVec.eq_of_toNat_eq
  rw [toNat_append_add, toNat_append_add, toNat_fieldNnn, toNat_fieldX, toNat_fieldY, toNat_fieldN]
  omega

/-! ### Decoding the encoder's word -/

/-- Words of family 0 with different fields are different. -/
theorem family0_word_ne {nnn a : Addr} (h : nnn ≠ a) : 0x0#4 ++ nnn ≠ 0x0#4 ++ a := fun hw =>
  h (by simpa only [fieldNnn_hnnn] using congrArg fieldNnn hw)

/-- The Decoder reads back the fields of the pattern the encoder wrote; a sys is told from clear-screen and return by
its field. -/
theorem decodeWord_encode (h : i.wellFormed = true) : decodeWord (encode i) = .ok i := by
  cases i
  case clearScreen | ret => decide
  case sys nnn =>
    have ⟨h0E0, h0EE⟩ : nnn ≠ 0x0E0#12 ∧ nnn ≠ 0x0EE#12 := by simpa [Instr.wellFormed, sysField] using h
    have hclear : 0x0#4 ++ nnn ≠ 0x00E0#16 := family0_word_ne h0E0
    have hret : 0x0#4 ++ nnn ≠ 0x00EE#16 := family0_word_ne h0EE
    simp only [encode, decodeWord, fieldHigh_hnnn, decodeFamily0, if_neg hclear, if_neg hret, fieldNnn_hnnn]
  all_goals simp [encode, decodeWord, decodeFamily8, decodeFamilyE, decodeFamilyF]

theorem decodeBytes_encodeBytes (h : i.wellFormed = true) : decodeBytes (encodeBytes i) = .ok (i, []) := by
  simp only [encodeBytes, decodeBytes, Machine.wordOfBytes_high_low, decodeWord_encode h]

/-! ### The word of a decoded instruction -/

theorem encode_of_decodeFamily0 (hw : fieldHigh w = 0x0#4) :
    encode (decodeFamily0 w) = w ∧ (decodeFamily0 w).wellFormed = true := by
  have hword := hnnn_of_fieldHigh hw
  unfold decodeFamily0
  split_ifs with hclear hret
  · exact ⟨hclear.symm, rfl⟩
  · exact ⟨hret.symm, rfl⟩
  · have hclear' : fieldNnn w ≠ 0x0E0#12 := fun h => hclear (by rw [← hword, h]; rfl)
    have hret' : fieldNnn w ≠ 0x0EE#12 := fun h => hret (by rw [← hword, h]; rfl)
    exact ⟨hword, by simp [Instr.wellFormed, sysField, hclear', hret']⟩

theorem encode_of_decodeFamily8 (hw : fieldHigh w = 0x8#4) (h : decodeFamily8 w = .ok i) :
    encode i = w ∧ i.wellFormed = true := by
  have hword := hxyn_of_fieldHigh hw
  unfold decodeFamily8 at h
  split at h <;> cases h
  all_goals exact ⟨by rwa [‹fieldN w = _›] at hword, rfl⟩

theorem encode_of_decodeFamilyE (hw : fieldHigh w = 0xE#4) (h : decodeFamilyE w = .ok i) :
    encode i = w ∧ i.wellFormed = true := by
  have hword := hxkk_of_fieldHigh hw
  unfold decodeFamilyE at h
  split at h <;> cases h
  all_goals exact ⟨by rwa [‹fieldKk w = _›] at hword, rfl⟩

theorem encode_of_decodeFamilyF (hw : fieldHigh w = 0xF#4) (h : decodeFamilyF w = .ok i) :
    encode i = w ∧ i.wellFormed = true := by
  have hword := hxkk_of_fieldHigh hw
  unfold decodeFamilyF at h
  split at h <;> cases h
  all_goals exact ⟨by rwa [‹fieldKk w = _›] at hword, rfl⟩

/-- What the Decoder can do with a word: the three families with a second discriminator, and the others,
whose words all have an instruction (R79). -/
theorem decodeWord_cases (w : Word) :
    (fieldHigh w = 0x8#4 ∧ decodeWord w = decodeFamily8 w) ∨
    (fieldHigh w = 0xE#4 ∧ decodeWord w = decodeFamilyE w) ∨
    (fieldHigh w = 0xF#4 ∧ decodeWord w = decodeFamilyF w) ∨
    (fieldHigh w ∉ [0x8#4, 0xE#4, 0xF#4] ∧ ∃ i, decodeWord w = .ok i ∧ encode i = w ∧ i.wellFormed = true) := by
  unfold decodeWord
  split
  case h_9 hw => exact .inl ⟨hw, rfl⟩
  case h_15 hw => exact .inr (.inl ⟨hw, rfl⟩)
  case h_16 =>
    have hw : fieldHigh w = 0xF#4 := by simp only [imp_false] at *; bv_omega
    exact .inr (.inr (.inl ⟨hw, rfl⟩))
  all_goals refine .inr (.inr (.inr ⟨by rw [‹fieldHigh w = _›]; decide, _, rfl, ?_⟩))
  case h_1 hw => exact encode_of_decodeFamily0 hw
  case h_2 hw | h_3 hw | h_11 hw | h_12 hw => exact ⟨hnnn_of_fieldHigh hw, rfl⟩
  case h_4 hw | h_5 hw | h_7 hw | h_8 hw | h_13 hw => exact ⟨hxkk_of_fieldHigh hw, rfl⟩
  case h_6 hw | h_10 hw | h_14 hw => exact ⟨hxyn_of_fieldHigh hw, rfl⟩

theorem encode_of_decodeWord (h : decodeWord w = .ok i) : encode i = w ∧ i.wellFormed = true := by
  obtain ⟨hw, hd⟩ | ⟨hw, hd⟩ | ⟨hw, hd⟩ | ⟨-, j, hd, hj⟩ := decodeWord_cases w
  · exact encode_of_decodeFamily8 hw (hd ▸ h)
  · exact encode_of_decodeFamilyE hw (hd ▸ h)
  · exact encode_of_decodeFamilyF hw (hd ▸ h)
  · cases hd.symm.trans h
    exact hj

/-! ### The rejected words (R81, R82, R83, R88) -/

/-- The values of `n` with no category in family 8. -/
def illegal8 : List Nat := [0x8, 0x9, 0xA, 0xB, 0xC, 0xD, 0xF]

/-- The values of `kk` with a category in family E. -/
def legalE : List Nat := [0x9E, 0xA1]

/-- The values of `kk` with a category in family F. -/
def legalF : List Nat := [0x07, 0x0A, 0x15, 0x18, 0x1E, 0x29, 0x33, 0x55, 0x65]

theorem decodeFamily8_eq_error_iff : (∃ e, decodeFamily8 w = .error e) ↔ (fieldN w).toNat ∈ illegal8 := by
  unfold decodeFamily8
  split
  case h_10 =>
    simp only [imp_false] at *
    simp only [illegal8, Except.error.injEq, exists_eq', List.mem_cons, List.not_mem_nil, or_false, true_iff]
    bv_omega
  all_goals simp [illegal8, ‹fieldN w = _›]

theorem decodeFamilyE_eq_error_iff : (∃ e, decodeFamilyE w = .error e) ↔ (fieldKk w).toNat ∉ legalE := by
  unfold decodeFamilyE
  split
  case h_3 =>
    simp only [imp_false] at *
    simp only [legalE, Except.error.injEq, exists_eq', List.mem_cons, List.not_mem_nil, or_false, not_or, true_iff]
    bv_omega
  all_goals simp [legalE, ‹fieldKk w = _›]

theorem decodeFamilyF_eq_error_iff : (∃ e, decodeFamilyF w = .error e) ↔ (fieldKk w).toNat ∉ legalF := by
  unfold decodeFamilyF
  split
  case h_10 =>
    simp only [imp_false] at *
    simp only [legalF, Except.error.injEq, exists_eq', List.mem_cons, List.not_mem_nil, or_false, not_or, true_iff]
    bv_omega
  all_goals simp [legalF, ‹fieldKk w = _›]

/-- The rejected words: families 8, E and F with a discriminator that has no category. -/
theorem decodeWord_eq_error_iff : (∃ e, decodeWord w = .error e) ↔
    (fieldHigh w = 0x8#4 ∧ (fieldN w).toNat ∈ illegal8) ∨
    (fieldHigh w = 0xE#4 ∧ (fieldKk w).toNat ∉ legalE) ∨
    (fieldHigh w = 0xF#4 ∧ (fieldKk w).toNat ∉ legalF) := by
  rw [← decodeFamily8_eq_error_iff, ← decodeFamilyE_eq_error_iff, ← decodeFamilyF_eq_error_iff]
  obtain ⟨hw, hd⟩ | ⟨hw, hd⟩ | ⟨hw, hd⟩ | ⟨hw, i, hd, -⟩ := decodeWord_cases w
  · simp [hw, hd]
  · simp [hw, hd]
  · simp [hw, hd]
  · simp only [List.mem_cons, List.not_mem_nil, or_false, not_or] at hw
    simp [hw, hd]

/-! ### The rows of the map (R76, R85) -/

/-- The per-instruction rows as one lemma. -/
theorem opcodeRow : ∀ i : Instr, Laws.OpcodeRow.Statement i
  | .clearScreen => Laws.OpcodeRow.clearScreen
  | .ret => Laws.OpcodeRow.ret
  | .jump a => Laws.OpcodeRow.jump a
  | .call a => Laws.OpcodeRow.call a
  | .skipEqualImmediate x kk => Laws.OpcodeRow.skipEqualImmediate x kk
  | .skipNotEqualImmediate x kk => Laws.OpcodeRow.skipNotEqualImmediate x kk
  | .skipEqualRegisters x y n => Laws.OpcodeRow.skipEqualRegisters x y n
  | .loadImmediate x kk => Laws.OpcodeRow.loadImmediate x kk
  | .addImmediate x kk => Laws.OpcodeRow.addImmediate x kk
  | .loadRegister x y => Laws.OpcodeRow.loadRegister x y
  | .orRegisters x y => Laws.OpcodeRow.orRegisters x y
  | .andRegisters x y => Laws.OpcodeRow.andRegisters x y
  | .xorRegisters x y => Laws.OpcodeRow.xorRegisters x y
  | .addRegisters x y => Laws.OpcodeRow.addRegisters x y
  | .subRegisters x y => Laws.OpcodeRow.subRegisters x y
  | .shiftRight x y => Laws.OpcodeRow.shiftRight x y
  | .subReverse x y => Laws.OpcodeRow.subReverse x y
  | .shiftLeft x y => Laws.OpcodeRow.shiftLeft x y
  | .skipNotEqualRegisters x y n => Laws.OpcodeRow.skipNotEqualRegisters x y n
  | .loadIndexImmediate a => Laws.OpcodeRow.loadIndexImmediate a
  | .jumpWithOffset a => Laws.OpcodeRow.jumpWithOffset a
  | .randomAndMask x kk => Laws.OpcodeRow.randomAndMask x kk
  | .drawSprite x y n => Laws.OpcodeRow.drawSprite x y n
  | .skipIfKeyPressed x => Laws.OpcodeRow.skipIfKeyPressed x
  | .skipIfKeyNotPressed x => Laws.OpcodeRow.skipIfKeyNotPressed x
  | .loadFromDelayTimer x => Laws.OpcodeRow.loadFromDelayTimer x
  | .loadFromKeyBlocking x => Laws.OpcodeRow.loadFromKeyBlocking x
  | .loadToDelayTimer x => Laws.OpcodeRow.loadToDelayTimer x
  | .loadToSoundTimer x => Laws.OpcodeRow.loadToSoundTimer x
  | .addToIndex x => Laws.OpcodeRow.addToIndex x
  | .loadFontAddress x => Laws.OpcodeRow.loadFontAddress x
  | .storeBcd x => Laws.OpcodeRow.storeBcd x
  | .storeRegistersToMemory x => Laws.OpcodeRow.storeRegistersToMemory x
  | .loadRegistersFromMemory x => Laws.OpcodeRow.loadRegistersFromMemory x
  | .sys a => Laws.OpcodeRow.sys a

/-- A decoded word meets the row of its instruction. -/
theorem match_of_decodeWord (h : decodeWord w = .ok i) :
    w &&& rowMask (categoryTag i) = rowMatch (categoryTag i) ∧ categoryTag i < 35 :=
  (encode_of_decodeWord h).1 ▸ opcodeRow i

/-- No two rows overlap, except that the rows of clear-screen and return lie in the row of sys. -/
theorem rows_disjoint : ∀ t < 35, ∀ t' < t,
    rowMask t' &&& rowMatch t = rowMask t &&& rowMatch t' → t = 34 ∧ t' < 2 := by decide

/-- So of two rows that a word meets, the later is the row of sys and the earlier is clear-screen's or return's. -/
theorem rows_of_match {t t' : Nat} (ht : t < 35) (hlt : t' < t) (h : w &&& rowMask t = rowMatch t)
    (h' : w &&& rowMask t' = rowMatch t') : t = 34 ∧ t' < 2 :=
  rows_disjoint t ht t' hlt (by rw [← h, ← h']; ac_rfl)

/-- The rows of clear-screen and return hold one word each. -/
theorem word_of_match_of_lt_two {t : Nat} (ht : t < 2) (h : w &&& rowMask t = rowMatch t) :
    (t = 0 ∧ w = 0x00E0#16) ∨ (t = 1 ∧ w = 0x00EE#16) := by
  have hword (v : Word) (hv : w &&& BitVec.allOnes 16 = v) : w = v := by rwa [BitVec.and_allOnes] at hv
  interval_cases t
  · exact .inl ⟨rfl, hword _ h⟩
  · exact .inr ⟨rfl, hword _ h⟩

/-! ### A matched word decodes -/

/-- A field that a row fixes is the same in every word of the row. -/
theorem extractLsb'_of_match {start len t : Nat} (h : w &&& rowMask t = rowMatch t)
    (hmask : (rowMask t).extractLsb' start len = BitVec.allOnes len) :
    w.extractLsb' start len = (rowMatch t).extractLsb' start len := by
  rw [← h, BitVec.extractLsb'_and, hmask, BitVec.and_allOnes]

theorem fieldHigh_rowMask : ∀ t < 35, fieldHigh (rowMask t) = 0xF#4 := by decide

/-- The rows of family 8 fix `n`, to a value that has a category. -/
theorem row_family8 : ∀ t < 35, fieldHigh (rowMatch t) = 0x8#4 →
    fieldN (rowMask t) = 0xF#4 ∧ (fieldN (rowMatch t)).toNat ∉ illegal8 := by decide

/-- The rows of family E fix `kk`, to a value that has a category. -/
theorem row_familyE : ∀ t < 35, fieldHigh (rowMatch t) = 0xE#4 →
    fieldKk (rowMask t) = 0xFF#8 ∧ (fieldKk (rowMatch t)).toNat ∈ legalE := by decide

/-- The rows of family F fix `kk`, to a value that has a category. -/
theorem row_familyF : ∀ t < 35, fieldHigh (rowMatch t) = 0xF#4 → fieldKk (rowMask t) = 0xFF#8 ∧
    (fieldKk (rowMatch t)).toNat ∈ legalF := by decide

/-- No word of a row is rejected. -/
theorem decodeWord_ne_error_of_match {t : Nat} (ht : t < 35) (h : w &&& rowMask t = rowMatch t) :
    decodeWord w ≠ .error e := by
  intro he
  have hhigh : fieldHigh w = fieldHigh (rowMatch t) := extractLsb'_of_match h (fieldHigh_rowMask t ht)
  obtain ⟨hw, hbad⟩ | ⟨hw, hbad⟩ | ⟨hw, hbad⟩ := decodeWord_eq_error_iff.1 ⟨e, he⟩
  · obtain ⟨hmask, hrow⟩ := row_family8 t ht (hhigh ▸ hw)
    have hn : fieldN w = fieldN (rowMatch t) := extractLsb'_of_match h hmask
    exact hrow (hn ▸ hbad)
  · obtain ⟨hmask, hrow⟩ := row_familyE t ht (hhigh ▸ hw)
    have hkk : fieldKk w = fieldKk (rowMatch t) := extractLsb'_of_match h hmask
    exact hbad (hkk ▸ hrow)
  · obtain ⟨hmask, hrow⟩ := row_familyF t ht (hhigh ▸ hw)
    have hkk : fieldKk w = fieldKk (rowMatch t) := extractLsb'_of_match h hmask
    exact hbad (hkk ▸ hrow)

/-- A word of a row decodes to the row's category, sys yielding its two other words: the instruction it decodes to has
a row the word meets too. -/
theorem decodeWord_of_match {t : Nat} (ht : t < 35) (h : w &&& rowMask t = rowMatch t)
    (hsys : t = 34 → w ≠ 0x00E0#16 ∧ w ≠ 0x00EE#16) : ∃ i, decodeWord w = .ok i ∧ categoryTag i = t := by
  cases hd : decodeWord w with
  | error e => exact absurd hd (decodeWord_ne_error_of_match ht h)
  | ok i =>
    obtain ⟨hrow, htag⟩ := match_of_decodeWord hd
    obtain hlt | heq | hlt := lt_trichotomy (categoryTag i) t
    · obtain ⟨h34, htwo⟩ := rows_of_match ht hlt h hrow
      obtain ⟨-, hw⟩ | ⟨-, hw⟩ := word_of_match_of_lt_two htwo hrow
      · exact absurd hw (hsys h34).1
      · exact absurd hw (hsys h34).2
    · exact ⟨i, rfl, heq⟩
    · obtain ⟨-, htwo⟩ := rows_of_match htag hlt hrow h
      rw [← hd]
      obtain ⟨rfl, rfl⟩ | ⟨rfl, rfl⟩ := word_of_match_of_lt_two htwo h
      · exact ⟨.clearScreen, rfl, rfl⟩
      · exact ⟨.ret, rfl, rfl⟩

end Sys2Proof
end

section
/-! PROOFS. The statements about the Decoder (30_encoding.md), each from the lemmas above. -/

namespace Sys2Proof.Proofs

open Sys2Proof

/-- Settles O1: the fields of the encoder's word are the operands. -/
theorem decodeOfEncodeIsTheInstruction : Obligations.DecodeOfEncodeIsTheInstruction :=
  fun _ h => ⟨decodeWord_encode h, decodeBytes_encodeBytes h⟩

/-- Settles O2: a word is its fields side by side. -/
theorem encodeOfDecodeIsTheWord : Obligations.EncodeOfDecodeIsTheWord :=
  fun _ _ => encode_of_decodeWord

/-- Settles O3: every category's words meet its row, the rows are disjoint, and no word of a row is rejected. -/
theorem wordsBelongToTheRowTheyMatch : Obligations.WordsBelongToTheRowTheyMatch :=
  fun _ => ⟨fun _ h => (match_of_decodeWord h).1,
    fun _ ht h => decodeWord_of_match (ht.trans (by decide)) h fun h34 => absurd h34 ht.ne,
    fun h hclear hret => decodeWord_of_match (by decide) h fun _ => ⟨hclear, hret⟩⟩

/-- Settles O4: the rejected words, their fields read as numbers. -/
theorem illegalWordsAreThoseWithNoCategory : Obligations.IllegalWordsAreThoseWithNoCategory := by
  intro w
  rw [decodeWord_eq_error_iff, toNat_fieldN, toNat_fieldKk]
  simp only [← BitVec.toNat_inj, toNat_fieldHigh, BitVec.toNat_ofNat, Nat.reducePow, Nat.reduceMod,
    illegal8, legalE, legalF]

/-- Settles O5: the fields as numbers, and the word as its fields side by side. -/
theorem fieldsAreTheirBitRanges : Obligations.FieldsAreTheirBitRanges := by
  intro w
  exact ⟨toNat_fieldHigh w, toNat_fieldNnn w, toNat_fieldN w, toNat_fieldX w, toNat_fieldY w, toNat_fieldKk w,
    fieldNnn_eq_append w, fieldKk_eq_append w⟩

/-- Settles O6: a category tag is below 35, so six bits hold it and it is not 63. -/
theorem decoderPortsTellFaultFromCategory : Obligations.DecoderPortsTellFaultFromCategory := by
  intro w
  refine ⟨rfl, fun i h => ?_, fun e h => by simp [decoderPorts, h]⟩
  have htag : categoryTag i < 35 := (opcodeRow i).2
  have hcat : (BitVec.ofNat 6 (categoryTag i)).toNat = categoryTag i := by rw [BitVec.toNat_ofNat]; omega
  simp only [decoderPorts, h]
  exact ⟨trivial, hcat, by omega⟩

/-- Settles O7: by computation. -/
theorem wordsWrittenOutDecode : Obligations.WordsWrittenOutDecode := by
  unfold Obligations.WordsWrittenOutDecode
  decide

end Sys2Proof.Proofs
end

section
/-! PROOFS. The kernel faults exactly where the fault table says (40_dispatch_kernel.md R105, R112), and the engine states
an instruction leaves (60_exceptions.md R197). -/

namespace Sys2Proof.Machine

open Sys2Proof.Claims

/-! ### The fault table (R112) -/

/-- A rule guarded by `c` faults as a table row guarded by `d` says, where the two conditions agree. -/
theorem guarded_eq_fault_iff {c d : Prop} [Decidable c] [Decidable d] {f k : FaultKind} {w : State} {a : PcAction}
    (hcd : c ↔ d) : (if c then KernelResult.fault f else .ok w a) = .fault k ↔ (if d then some f else none) = some k := by
  by_cases hd : d
  · simp [hcd.2 hd, hd]
  · simp [mt hcd.1 hd, hd]

/-- The kernel faults exactly as the table of R112 says: the stack's bounds, and the last byte of an access over 0xFFFF. -/
theorem kernel_eq_fault_iff {i : Instr} {s : State} {k : FaultKind} : kernel i s = .fault k ↔ faultOf i s = some k := by
  cases i
  case call =>
    obtain ⟨hfull, hp⟩ | ⟨hlt, hp⟩ := push_cases s s.pc
    · simp [kernel, kernelCall, hp, faultOf, hfull]
    · simp [kernel, kernelCall, hp, faultOf, hlt.ne]
  case ret =>
    obtain ⟨hempty, hp⟩ | ⟨hpos, hp⟩ := pop_cases s
    · simp [kernel, kernelRet, hp, faultOf, hempty]
    · simp [kernel, kernelRet, hp, faultOf, hpos]
  case storeBcd =>
    exact guarded_eq_fault_iff (by rw [accessFaults_eq_true, dataBase, memLimit]; omega)
  case storeRegistersToMemory | loadRegistersFromMemory =>
    exact guarded_eq_fault_iff (by rw [accessFaults_eq_true, dataBase, blockLength, memLimit]; omega)
  case drawSprite =>
    exact guarded_eq_fault_iff (by rw [accessFaults_eq_true, dataBase, memLimit]; omega)
  all_goals exact iff_of_false nofun nofun

/-- An instruction whose condition holds halts the engine with its kind and its opcode. -/
theorem exec_of_faultOf_eq_some {i : Instr} {s : State} {k : FaultKind} (h : faultOf i s = some k) :
    exec i s = .next (s.halt k (some (encode i))) :=
  exec_of_fault (kernel_eq_fault_iff.2 h)

/-- An instruction whose condition does not hold fetches next or waits for a key, and leaves the fault record. -/
theorem run_and_faultRec_of_faultOf_eq_none {i : Instr} {s t : State} (hn : faultOf i s = none)
    (h : exec i s = .next t) : (t.run = .fetching ∨ t.run = .haltedOnKey) ∧ t.faultRec = s.faultRec := by
  obtain ⟨w, a, hk, rfl⟩ | ⟨x, -, rfl⟩ | ⟨f, hk, -⟩ := exec_cases h
  · exact ⟨.inl rfl, (written_of_kernel hk).faultRec_eq⟩
  · exact ⟨.inr rfl, rfl⟩
  · cases hn.symm.trans (kernel_eq_fault_iff.1 hk)

/-! ### The engine state an instruction leaves (R197) -/

/-- The engine state an instruction leaves is one of three (R197): it is never `Executing`. -/
theorem run_of_exec {i : Instr} {s t : State} (h : exec i s = .next t) :
    t.run = .fetching ∨ t.run = .haltedOnKey ∨ t.run = .haltedOnFault := by
  obtain ⟨w, a, -, rfl⟩ | ⟨x, -, rfl⟩ | ⟨f, -, rfl⟩ := exec_cases h
  · exact .inl rfl
  · exact .inr (.inl rfl)
  · exact .inr (.inr rfl)

end Sys2Proof.Machine
end

section
/-! PROOFS. The statements about the dispatcher and the kernel (40_dispatch_kernel.md), each from the lemmas above. -/

namespace Sys2Proof.Proofs

open Sys2Proof Sys2Proof.Machine Sys2Proof.Claims

/-- Settles O11: a commit fetches next, a key wait and a fault halt. -/
theorem everyInstructionAnswersANextState : Obligations.EveryInstructionAnswersANextState := by
  intro i s
  obtain ⟨t, ht⟩ := exec_eq_next i s
  exact ⟨t, ht, run_of_exec ht⟩

/-- Settles O15: the kernel faults exactly where the table does, and only a fault of the kernel halts on one. -/
theorem faultsArePreciseAndThoseOfTheTable : Obligations.FaultsArePreciseAndThoseOfTheTable := by
  refine fun i s => ⟨fun _ hk => exec_of_faultOf_eq_some hk, fun hn t ht => ?_⟩
  obtain ⟨hrun, hrec⟩ := run_and_faultRec_of_faultOf_eq_none hn ht
  exact ⟨by obtain hr | hr := hrun <;> simp [hr], hrec⟩

end Sys2Proof.Proofs
end

section
/-! PROOFS. The control-flow instructions (41_control_flow.md): the two outcomes of a skip, the target of jump-with-offset,
and calls and returns by what they do to the live entries of the return stack. -/

namespace Sys2Proof.Machine

open Sys2Proof.Claims

variable {i : Instr} {s t : State}

/-- A well-formed instruction has the encoder's word, both ways, and its own tag (R85). -/
theorem encodes_of_wellFormed (h : i.wellFormed = true) : Encodes (encode i) (categoryTag i) i :=
  ⟨decodeWord_encode h, rfl, rfl⟩

/-! ### Skips and jumps (R122, R124 to R128) -/

/-- An instruction that writes nothing and skips on a condition moves `pc` by 4 or by 2. -/
theorem exec_of_skip {c : Prop} [Decidable c] (h : kernel i s = .ok s (if c then .skipNext else .advance)) :
    exec i s = .next { s with pc := if c then s.pc + 4 else s.pc + 2, run := .fetching } := by
  rw [exec_of_ok h, State.commit, apply_ite (pcPolicy · s.pc), pcPolicy_skipNext, pcPolicy_advance]

/-- The same for one that skips where the condition does not hold. -/
theorem exec_of_skip_unless {c : Prop} [Decidable c] (h : kernel i s = .ok s (if ¬ c then .skipNext else .advance)) :
    exec i s = .next { s with pc := if c then s.pc + 2 else s.pc + 4, run := .fetching } := by
  rw [exec_of_skip h, ite_not]

/-- A byte and a 12-bit address add up without a wrap. -/
theorem toNat_zextByte_add_zextAddr (b : Byte) (a : Addr) :
    (zextByte b + zextAddr a).toNat = b.toNat + a.toNat := by
  have := b.isLt
  have := a.isLt
  rw [BitVec.toNat_add, toNat_zextByte, toNat_zextAddr]; omega

/-- A fetching engine that finds a jump to its own `pc` stays as it is. -/
theorem step_of_jump_to_itself {nnn : Addr} (hr : s.run = .fetching) (hf : fetch s = some (encode (.jump nnn)))
    (hpc : s.pc = zextAddr nnn) : step s = .next s := by
  have hexec : step s = .next { s with pc := zextAddr nnn, run := .fetching } :=
    step_of_decode_ok hr hf (decodeWord_encode rfl)
  rw [hexec, ← hpc, ← hr]

/-! ### The live entries of the return stack (R29 to R31) -/

/-- The return addresses on the stack, the oldest first. -/
def State.liveStack (s : State) : List Word := s.stk.toList.take s.sp.val

@[simp] theorem length_liveStack (s : State) : s.liveStack.length = s.sp.val := by
  have := s.sp.isLt
  simp only [State.liveStack, List.length_take, Vector.length_toList]; omega

theorem getElem?_liveStack {k : Nat} (h : k < s.sp.val) :
    s.liveStack[k]? = some (s.stk[k]'(by have := s.sp.isLt; omega)) := by
  simp [State.liveStack, h]

/-- A push adds its word as the newest entry. -/
theorem liveStack_push (h : s.sp.val < 16) (w : Word) :
    { s with stk := s.stk.set s.sp.val w h, sp := ⟨s.sp.val + 1, Nat.succ_lt_succ h⟩ }.liveStack =
      s.liveStack ++ [w] := by
  simp [State.liveStack, Vector.toList_set, List.take_add_one, List.take_set, List.set_eq_of_length_le, h]

/-! ### Nested calls and their returns (R121, R123) -/

/-- A return onto `p` live entries resumes two bytes after the entry it pops. -/
theorem exec_ret_of_succ {p : Fin 17} (h : p.val + 1 = s.sp.val) :
    exec .ret s =
      .next { s with sp := p, pc := s.stk[p.val]'(by have := s.sp.isLt; omega) + 2, run := .fetching } := by
  have hp : s.sp.val - 1 = p.val := by omega
  simp only [exec_ret_of_pos (s := s) (by omega), State.commit, pcPolicy_jump, hp]

theorem callAll_cons {a : Addr} (h : exec (.call a) s = .next t) (as : List Addr) :
    callAll (a :: as) s = callAll as t := by
  simp only [callAll, h]

theorem returnTimes_succ (h : exec .ret s = .next t) (k : Nat) : returnTimes (k + 1) s = returnTimes k t := by
  simp only [returnTimes, h]

@[simp] theorem length_callSites (as : List Addr) (pc : Word) : (callSites as pc).length = as.length := by
  induction as generalizing pc with
  | nil => rfl
  | cons a as ih => simp [callSites, ih]

/-- A call that fits adds its own address as the newest entry, and writes nothing else but `pc` and `RUN`. -/
theorem exec_call_pushes (h : s.sp.val < 16) (a : Addr) :
    ∃ t, exec (.call a) s = .next t ∧ t.liveStack = s.liveStack ++ [s.pc] ∧ t.pc = zextAddr a ∧
      ∃ e p q r, t = { s with stk := e, sp := p, pc := q, run := r } :=
  ⟨_, exec_call_of_lt h a, liveStack_push h s.pc, rfl, _, _, _, _, rfl⟩

/-- Calls that fit put their own addresses on the stack in order, and touch nothing but the stack, `pc` and `RUN`. -/
theorem callAll_of_fits {as : List Addr} (h : s.sp.val + as.length ≤ 16) :
    ∃ t, callAll as s = .next t ∧ t.liveStack = s.liveStack ++ callSites as s.pc ∧
      ∃ e p q r, t = { s with stk := e, sp := p, pc := q, run := r } := by
  induction as generalizing s with
  | nil => exact ⟨s, rfl, (List.append_nil _).symm, _, _, _, _, rfl⟩
  | cons a as ih =>
    rw [List.length_cons] at h
    obtain ⟨t₁, hcall, hpush, hpc, hframe₁⟩ := exec_call_pushes (s := s) (by omega) a
    have hsp : t₁.sp.val = s.sp.val + 1 := by simpa using congrArg List.length hpush
    obtain ⟨t, hcalls, hlive, hframe⟩ := ih (s := t₁) (by omega)
    refine ⟨t, (callAll_cons hcall as).trans hcalls, ?_, ?_⟩
    · rw [hlive, hpush, hpc, List.append_assoc]
      rfl
    · obtain ⟨_, _, _, _, rfl⟩ := hframe₁
      exact hframe

/-- One call too many halts on a StackFault with the stack full. -/
theorem callAll_of_one_too_many {as : List Addr} (hne : as ≠ []) (h : s.sp.val + as.length = 17) :
    ∃ t r, callAll as s = .next t ∧ t.run = .haltedOnFault ∧ t.faultRec = some r ∧ r.kind = .stackFault ∧
      t.sp.val = 16 := by
  induction as generalizing s with
  | nil => exact absurd rfl hne
  | cons a as ih =>
    rw [List.length_cons] at h
    by_cases hlt : s.sp.val < 16
    · have has : as ≠ [] := by rintro rfl; simp at h; omega
      rw [callAll_cons (exec_call_of_lt hlt a)]
      exact ih has (by simp only [sp_commit]; omega)
    · have hfull : s.sp.val = 16 := by omega
      have has : as = [] := List.length_eq_zero_iff.1 (by omega)
      rw [callAll_cons (exec_call_of_full hfull a), has]
      exact ⟨_, _, rfl, rfl, rfl, rfl, hfull⟩

/-- `k + 1` returns leave `p` live entries and resume two bytes after the last entry popped. -/
theorem returnTimes_of_live {k : Nat} {p : Fin 17} (h : p.val + (k + 1) = s.sp.val) :
    returnTimes (k + 1) s =
      .next { s with sp := p, pc := s.stk[p.val]'(by have := s.sp.isLt; omega) + 2, run := .fetching } := by
  induction k generalizing s with
  | zero => exact returnTimes_succ (exec_ret_of_succ h) 0
  | succ k ih =>
    have hp : p.val + (k + 1) < 17 := by have := s.sp.isLt; omega
    rw [returnTimes_succ (exec_ret_of_succ (p := ⟨p.val + (k + 1), hp⟩) h)]
    exact ih rfl

end Sys2Proof.Machine
end

section
/-! PROOFS. The statements about control flow (41_control_flow.md), each from the lemmas above. -/

namespace Sys2Proof.Proofs

open Sys2Proof Sys2Proof.Machine Sys2Proof.Claims

/-- Settles O35: the calls leave their sites as the newest live entries, and the returns pop them from the top. -/
theorem returnsResumeInReverseCallOrder : Obligations.ReturnsResumeInReverseCallOrder := by
  refine fun as s => ⟨fun hfit => ?_, callAll_of_one_too_many⟩
  obtain ⟨t, hcalls, hlive, _, _, _, _, hframe⟩ := callAll_of_fits hfit
  have hsp : t.sp.val = s.sp.val + as.length := by simpa using congrArg List.length hlive
  refine ⟨t, hcalls, hsp, fun k hk hlen => ?_⟩
  obtain ⟨k, rfl⟩ := Nat.exists_eq_add_of_le' hk
  obtain ⟨p, hp⟩ : ∃ p : Fin 17, p.val + (k + 1) = t.sp.val :=
    ⟨⟨t.sp.val - (k + 1), by omega⟩, Nat.sub_add_cancel (by omega)⟩
  have hsite : (callSites as s.pc)[as.length - (k + 1)]? = some (t.stk[p.val]'(by omega)) := by
    have hindex : s.liveStack.length + (as.length - (k + 1)) = p.val := by rw [length_liveStack]; omega
    rw [← getElem?_liveStack (s := t) (by omega), hlive, ← hindex,
      List.getElem?_append_right (Nat.le_add_right _ _), Nat.add_sub_cancel_left]
  exact ⟨_, returnTimes_of_live hp, congrArg (Option.map (· + 2)) hsite, hp.trans hsp, by subst hframe; rfl⟩

/-- Settles O31: sys writes nothing and advances. -/
theorem sysOnlyAdvances : Obligations.SysOnlyAdvances := by
  refine fun nnn s => ⟨fun hclear hret => ?_, rfl⟩
  exact encodes_of_wellFormed (i := .sys nnn) (by simp [Instr.wellFormed, sysField, hclear, hret])

/-- Settles O32: the target is the zero-extended field, and a jump to itself finds `pc` and `RUN` as it leaves them. -/
theorem jumpGoesToItsAddress : Obligations.JumpGoesToItsAddress :=
  fun nnn _ => ⟨encodes_of_wellFormed (i := .jump nnn) rfl, rfl, step_of_jump_to_itself⟩

/-- Settles O33: the two outcomes of a push. -/
theorem callPushesItsOwnAddress : Obligations.CallPushesItsOwnAddress := by
  intro nnn s
  refine ⟨encodes_of_wellFormed (i := .call nnn) rfl, fun h => ?_, fun h => exec_call_of_full h nnn⟩
  exact ⟨_, exec_call_of_lt h nnn, rfl, Vector.getElem_set_self h,
    fun j hj => Vector.getElem_set_ne h j.isLt hj.symm, rfl⟩

/-- Settles O34: the two outcomes of a pop. -/
theorem returnResumesAfterThePoppedAddress : Obligations.ReturnResumesAfterThePoppedAddress :=
  ⟨encodes_of_wellFormed (i := .ret) rfl, fun _ =>
    ⟨fun h => ⟨_, exec_ret_of_pos h, Nat.succ_pred_eq_of_ne_zero h, rfl, rfl⟩, exec_ret_of_empty⟩⟩

/-- Settles O36: both compare `V[x]` with `kk` and write nothing. -/
theorem immediateSkipsCompareAByte : Obligations.ImmediateSkipsCompareAByte :=
  fun x kk _ => ⟨encodes_of_wellFormed (i := .skipEqualImmediate x kk) rfl, exec_of_skip rfl,
    encodes_of_wellFormed (i := .skipNotEqualImmediate x kk) rfl, exec_of_skip_unless rfl⟩

/-- Settles O37: both compare `V[x]` with `V[y]`, and no rule reads `n`. -/
theorem registerSkipsIgnoreTheLowNibble : Obligations.RegisterSkipsIgnoreTheLowNibble :=
  fun x y n _ => ⟨encodes_of_wellFormed (i := .skipEqualRegisters x y n) rfl, exec_of_skip rfl,
    encodes_of_wellFormed (i := .skipNotEqualRegisters x y n) rfl, exec_of_skip_unless rfl⟩

/-- Settles O38: a byte and a 12-bit field add up to at most 255 + 4095. -/
theorem jumpWithOffsetAddsRegisterZero : Obligations.JumpWithOffsetAddsRegisterZero := by
  intro nnn s
  have hsum := toNat_zextByte_add_zextAddr (s.reg baseReg) nnn
  have hbyte := (s.reg baseReg).isLt
  have hfield := nnn.isLt
  exact ⟨encodes_of_wellFormed (i := .jumpWithOffset nnn) rfl, _, rfl, hsum, hsum.trans_le (by omega), rfl⟩

end Sys2Proof.Proofs
end

section
/-! PROOFS. Register loads and arithmetic (42_load_alu.md): what an instruction leaves that writes a register, or a
register and the flag, and advances; and the numbers the flags and a difference of bytes hold. -/

namespace Sys2Proof.Machine

variable {i : Instr} {s : State} {x : Nibble} {b c : Byte}

/-! ### A register written, alone or with the flag (R104, R111) -/

/-- An instruction whose kernel rule writes `V[x]` and advances leaves every other register and field. -/
theorem exec_of_setReg (h : kernel i s = .ok (s.setReg x b) .advance) :
    ∃ t, exec i s = .next t ∧ t.reg x = b ∧ (∀ r, r ≠ x → t.reg r = s.reg r) ∧
      t = { s with v := t.v, pc := s.pc + 2, run := .fetching } :=
  ⟨_, exec_of_ok h, reg_setReg_same s x b, fun _ hr => reg_setReg_ne s b hr, rfl⟩

/-- One that writes the flag too: `VF` holds the flag, also where the result went there (R27). -/
theorem exec_of_setRegAndFlag (h : kernel i s = .ok (s.setRegAndFlag x b c) .advance) :
    ∃ t, exec i s = .next t ∧ (x ≠ vf → t.reg x = b) ∧ t.reg vf = c ∧
      (∀ r, r ≠ x → r ≠ vf → t.reg r = s.reg r) ∧ t = { s with v := t.v, pc := s.pc + 2, run := .fetching } := by
  have hreg (q : Nibble) : (s.commit (s.setRegAndFlag x b c) .advance).reg q =
      if q = vf then c else if q = x then b else s.reg q := reg_setRegAndFlag s x q b c
  refine ⟨_, exec_of_ok h, fun hx => ?_, ?_, fun r hx hf => ?_, rfl⟩
  · rw [hreg, if_neg hx, if_pos rfl]
  · rw [hreg, if_pos rfl]
  · rw [hreg, if_neg hf, if_neg hx]

/-! ### The flags as numbers (R108, R109) -/

theorem toNat_flagByte (p : Bool) : (flagByte p).toNat = p.toNat := by
  cases p <;> rfl

theorem toNat_carryFlag (a b : Byte) : (carryFlag a b).toNat = if a.toNat + b.toNat > 255 then 1 else 0 :=
  (toNat_flagByte _).trans (Bool.cond_decide _ 1 0)

theorem toNat_notBorrowFlag (a b : Byte) : (notBorrowFlag a b).toNat = if a.toNat ≥ b.toNat then 1 else 0 :=
  (toNat_flagByte _).trans (Bool.cond_decide _ 1 0)

theorem toNat_bit0Flag (a : Byte) : (bit0Flag a).toNat = a.toNat % 2 := by
  rw [bit0Flag, toNat_flagByte, BitVec.getLsbD, Nat.toNat_testBit, Nat.pow_zero, Nat.div_one]

theorem toNat_bit7Flag (a : Byte) : (bit7Flag a).toNat = a.toNat / 128 := by
  have := a.isLt
  rw [bit7Flag, toNat_flagByte, BitVec.getLsbD, Nat.toNat_testBit]; omega

/-! ### The difference as a number (R147, R148) -/

/-- A difference of bytes is the non-negative remainder modulo 256. -/
theorem toNat_byte_sub (a b : Byte) : ((a - b).toNat : Int) = ((a.toNat : Int) - b.toNat) % 256 := by
  have := a.isLt
  have := b.isLt
  rw [BitVec.toNat_sub]; omega

end Sys2Proof.Machine
end

section
/-! PROOFS. The statements about register loads and arithmetic (42_load_alu.md), each from the lemmas above. -/

namespace Sys2Proof.Proofs

open Sys2Proof Sys2Proof.Machine

/-- Settles O39: the rule writes `kk` to `V[x]`. -/
theorem loadImmediateWritesTheByte : Obligations.LoadImmediateWritesTheByte :=
  fun x kk _ => ⟨encodes_of_wellFormed (i := .loadImmediate x kk) rfl, exec_of_setReg rfl⟩

/-- Settles O40: the byte written is the sum of bytes, which wraps. -/
theorem addImmediateWrapsWithNoFlag : Obligations.AddImmediateWrapsWithNoFlag := by
  intro x kk s
  obtain ⟨t, hexec, hx, hframe⟩ := exec_of_setReg (i := .addImmediate x kk) (s := s) rfl
  exact ⟨encodes_of_wellFormed (i := .addImmediate x kk) rfl, t, hexec, by rw [hx, BitVec.toNat_add], hframe⟩

/-- Settles O41: the byte written is the copy, or the operation of the two bytes bit by bit. -/
theorem movesAndLogicWriteOneRegister : Obligations.MovesAndLogicWriteOneRegister := by
  intro x y s
  obtain ⟨t₁, hor, hx₁, hframe₁⟩ := exec_of_setReg (i := .orRegisters x y) (s := s) rfl
  obtain ⟨t₂, hand, hx₂, hframe₂⟩ := exec_of_setReg (i := .andRegisters x y) (s := s) rfl
  obtain ⟨t₃, hxor, hx₃, hframe₃⟩ := exec_of_setReg (i := .xorRegisters x y) (s := s) rfl
  exact ⟨encodes_of_wellFormed (i := .loadRegister x y) rfl, exec_of_setReg rfl,
    encodes_of_wellFormed (i := .orRegisters x y) rfl, ⟨t₁, hor, fun k => by rw [hx₁, BitVec.getLsbD_or], hframe₁⟩,
    encodes_of_wellFormed (i := .andRegisters x y) rfl, ⟨t₂, hand, fun k => by rw [hx₂, BitVec.getLsbD_and], hframe₂⟩,
    encodes_of_wellFormed (i := .xorRegisters x y) rfl, ⟨t₃, hxor, fun k => by rw [hx₃, BitVec.getLsbD_xor], hframe₃⟩⟩

/-- Settles O42: the byte written is the sum of bytes, which wraps, and the flag says that the sum is over 255. -/
theorem addRegistersSetsTheCarry : Obligations.AddRegistersSetsTheCarry := by
  intro x y s
  obtain ⟨t, hexec, hx, hf, hframe⟩ := exec_of_setRegAndFlag (i := .addRegisters x y) (s := s) rfl
  exact ⟨encodes_of_wellFormed (i := .addRegisters x y) rfl, t, hexec,
    fun hne => by rw [hx hne, BitVec.toNat_add], hf ▸ toNat_carryFlag _ _, hframe⟩

/-- Settles O43: the byte written is the difference modulo 256 one way or the other, and the flag says that the byte
subtracted from is not the smaller one. -/
theorem subtractionsSetNotBorrow : Obligations.SubtractionsSetNotBorrow := by
  intro x y s
  obtain ⟨t₁, hsub, hx₁, hf₁, hframe₁⟩ := exec_of_setRegAndFlag (i := .subRegisters x y) (s := s) rfl
  obtain ⟨t₂, hrev, hx₂, hf₂, hframe₂⟩ := exec_of_setRegAndFlag (i := .subReverse x y) (s := s) rfl
  exact ⟨encodes_of_wellFormed (i := .subRegisters x y) rfl,
    ⟨t₁, hsub, fun hne => hx₁ hne ▸ toNat_byte_sub _ _, hf₁ ▸ toNat_notBorrowFlag _ _, hframe₁⟩,
    encodes_of_wellFormed (i := .subReverse x y) rfl,
    ⟨t₂, hrev, fun hne => hx₂ hne ▸ toNat_byte_sub _ _, hf₂ ▸ toNat_notBorrowFlag _ _, hframe₂⟩⟩

/-- Settles O44: the byte written is half or twice `V[x]`, and the flag the bit that falls out. -/
theorem shiftsSetTheBitShiftedOut : Obligations.ShiftsSetTheBitShiftedOut := by
  intro x y s
  obtain ⟨t₁, hright, hx₁, hf₁, hframe₁⟩ := exec_of_setRegAndFlag (i := .shiftRight x y) (s := s) rfl
  obtain ⟨t₂, hleft, hx₂, hf₂, hframe₂⟩ := exec_of_setRegAndFlag (i := .shiftLeft x y) (s := s) rfl
  exact ⟨encodes_of_wellFormed (i := .shiftRight x y) rfl,
    ⟨t₁, hright, fun hne => by rw [hx₁ hne, BitVec.toNat_ushiftRight, Nat.shiftRight_one],
      hf₁ ▸ toNat_bit0Flag _, hframe₁⟩,
    encodes_of_wellFormed (i := .shiftLeft x y) rfl,
    ⟨t₂, hleft, fun hne => by rw [hx₂ hne, BitVec.toNat_shiftLeft, Nat.shiftLeft_eq, Nat.pow_one],
      hf₂ ▸ toNat_bit7Flag _, hframe₂⟩⟩

end Sys2Proof.Proofs
end

section
/-! PROOFS. Index register and memory (43_index_memory.md): the bound of an access by its last byte, and the address or
the digits that an instruction writes, as numbers. -/

namespace Sys2Proof.Machine

variable {s : State}

/-! ### The bound, by the offset of the last byte (R56) -/

/-- An access whose last byte, at offset `n`, lies at or below 0xFFFF does not fault. -/
theorem accessFaults_succ_of_le {base n : Nat} (h : base + n ≤ 0xFFFF) : accessFaults base (n + 1) = false :=
  accessFaults_eq_false.2 (.inr (Nat.succ_le_succ h))

/-! ### The address written to `I` (R161, R162) -/

/-- The sum of `I` and a byte wraps at 65536. -/
theorem toNat_add_zextByte (a : Word) (b : Byte) : (a + zextByte b).toNat = (a.toNat + b.toNat) % 65536 := by
  rw [BitVec.toNat_add, toNat_zextByte]

/-- Five times a byte fits in 16 bits, and the base added to it is 0. -/
theorem toNat_fontAddress (b : Byte) : (fontAddrBase + zextByte b * glyphBytes).toNat = b.toNat * 5 := by
  have hbase : fontAddrBase.toNat = 0 := rfl
  have hglyph : glyphBytes.toNat = 5 := rfl
  have := b.isLt
  rw [BitVec.toNat_add, BitVec.toNat_mul, toNat_zextByte, hbase, hglyph]; omega

/-! ### The digits stored (R163) -/

/-- A number no greater than a byte is kept when it is made a byte. -/
theorem toNat_ofNat_of_le_byte {n : Nat} {b : Byte} (h : n ≤ b.toNat) : (BitVec.ofNat 8 n).toNat = n :=
  (BitVec.toNat_ofNat n 8).trans (Nat.mod_eq_of_lt (h.trans_lt b.isLt))

/-- A store of digits puts hundreds, tens and units at its base and the two addresses after it. -/
theorem toNat_readByte_storeBytes_bcdDigits {base : Nat} (b : Byte) (hm : Memory.wf s.mem = true)
    (hb : base + 3 ≤ memLimit) :
    ((s.storeBytes base (bcdDigits b)).readByte base).toNat = b.toNat / 100 ∧
    ((s.storeBytes base (bcdDigits b)).readByte (base + 1)).toNat = b.toNat / 10 % 10 ∧
    ((s.storeBytes base (bcdDigits b)).readByte (base + 2)).toNat = b.toNat % 10 := by
  have hdigit (k : Nat) (hk : k < 3) : (s.storeBytes base (bcdDigits b)).readByte (base + k) = (bcdDigits b)[k]'hk :=
    readByte_storeBytes_inside hm hb hk
  refine ⟨(congrArg BitVec.toNat (hdigit 0 (by decide))).trans ?_,
    (congrArg BitVec.toNat (hdigit 1 (by decide))).trans ?_, (congrArg BitVec.toNat (hdigit 2 (by decide))).trans ?_⟩
  · exact toNat_ofNat_of_le_byte (Nat.div_le_self _ _)
  · exact toNat_ofNat_of_le_byte ((Nat.mod_le _ _).trans (Nat.div_le_self _ _))
  · exact toNat_ofNat_of_le_byte (Nat.mod_le _ _)

/-! ### The register file loaded (R165) -/

/-- A commit of a register file alone; for any file `v`, so that no proof unfolds the one a block load makes. -/
theorem commit_of_v (s : State) (v : Vector Byte 16) :
    s.commit { s with v := v } .advance = { s with v := v, pc := s.pc + 2, run := .fetching } := rfl

/-- A block load within memory reads the registers up to `x` from `I` on, and leaves those above and every other
field. -/
theorem exec_loadRegisters_reads {x : Nibble} (h : accessFaults (dataBase s) (blockLength x) = false) :
    ∃ t, exec (.loadRegistersFromMemory x) s = .next t ∧
      (∀ r : Nibble, t.reg r = if r.toNat ≤ x.toNat then s.readByte (dataBase s + r.toNat) else s.reg r) ∧
      t = { s with v := t.v, pc := s.pc + 2, run := .fetching } :=
  ⟨_, (exec_loadRegisters_of_fits h).trans (congrArg Host.Outcome.next (commit_of_v s _)), reg_loadBlock s x, rfl⟩

end Sys2Proof.Machine
end

section
/-! PROOFS. The statements about the index register and memory (43_index_memory.md), each from the lemmas above. -/

namespace Sys2Proof.Proofs

open Sys2Proof Sys2Proof.Machine

/-- Settles O48: a store of the three digits where they fit, and a row of the fault table where they do not. -/
theorem storeBcdWritesThreeDigits : Obligations.StoreBcdWritesThreeDigits := by
  refine fun x s hm => ⟨encodes_of_wellFormed (i := .storeBcd x) rfl, fun hfit => ?_,
    fun hover => exec_of_faultOf_eq_some (i := .storeBcd x) (if_pos hover)⟩
  obtain ⟨hhundreds, htens, hunits⟩ :=
    toNat_readByte_storeBytes_bcdDigits (base := dataBase s) (s.reg x) hm (Nat.succ_le_succ hfit)
  exact ⟨_, exec_storeBcd_of_fits (accessFaults_succ_of_le hfit) x, hhundreds, htens, hunits,
    fun _ ha => readByte_storeBytes_outside (by rwa [length_bcdDigits]), rfl⟩

/-- Settles O49: a store of the register block where it fits, and a row of the fault table where it does not. -/
theorem storeRegistersWritesTheBlock : Obligations.StoreRegistersWritesTheBlock := by
  refine fun x s hm => ⟨encodes_of_wellFormed (i := .storeRegistersToMemory x) rfl, fun hfit => ?_,
    fun hover => exec_of_faultOf_eq_some (i := .storeRegistersToMemory x) (if_pos hover)⟩
  exact ⟨_, exec_storeRegisters_of_fits (accessFaults_succ_of_le hfit),
    fun _ hr => readByte_storeBytes_regBlock hm (Nat.succ_le_succ hfit) hr,
    fun _ ha => readByte_storeBytes_outside (by rwa [length_regBlock]), rfl⟩

/-- Settles O50: a load of the block where it fits, and a row of the fault table where it does not. -/
theorem loadRegistersReadsTheBlock : Obligations.LoadRegistersReadsTheBlock := by
  refine fun x s => ⟨encodes_of_wellFormed (i := .loadRegistersFromMemory x) rfl, fun hfit => ?_,
    fun hover => exec_of_faultOf_eq_some (i := .loadRegistersFromMemory x) (if_pos hover)⟩
  obtain ⟨t, hexec, hreg, hframe⟩ := exec_loadRegisters_reads (accessFaults_succ_of_le hfit)
  exact ⟨t, hexec, fun r hr => (hreg r).trans (if_pos hr),
    fun r hr => (hreg r).trans (if_neg (Nat.not_le.2 hr)), hframe⟩

/-- Settles O45: the address written is the zero-extended field. -/
theorem loadIndexImmediateLoadsTheAddress : Obligations.LoadIndexImmediateLoadsTheAddress :=
  fun nnn _ => ⟨encodes_of_wellFormed (i := .loadIndexImmediate nnn) rfl, rfl⟩

/-- Settles O46: the address written is a sum of words, which wraps. -/
theorem addToIndexWrapsWithNoFlag : Obligations.AddToIndexWrapsWithNoFlag :=
  fun x s => ⟨encodes_of_wellFormed (i := .addToIndex x) rfl, _, rfl, toNat_add_zextByte s.i (s.reg x), rfl⟩

/-- Settles O47: five times a byte is below 65536, so nothing wraps. -/
theorem loadFontAddressTakesTheWholeByte : Obligations.LoadFontAddressTakesTheWholeByte :=
  fun x s => ⟨encodes_of_wellFormed (i := .loadFontAddress x) rfl, _, rfl, toNat_fontAddress (s.reg x), rfl⟩

end Sys2Proof.Proofs
end

section
/-! PROOFS. A draw as a whole (44_display.md R171). Each loop of R171 visits its pixels under an index that is a
function of the pixel, so no pixel is visited twice, and the order of the visits does not show in the result. -/

namespace Sys2Proof.Machine

open Sys2Proof.Claims

/-! ### What part of a draw does to the display so far and the collision so far -/

/-- From `acc` to `acc'` exactly the pixels of `p` are toggled, and the collision so far becomes true where one of them
was set. -/
structure Toggles (p : Nat → Nat → Bool) (acc acc' : Display × Bool) : Prop where
  pixel (r c : Nat) : acc'.1.pixel r c = (acc.1.pixel r c ^^ p r c)
  collision : acc'.2 = true ↔ acc.2 = true ∨ ∃ r c, acc.1.pixel r c = true ∧ p r c = true

theorem Toggles.none (acc : Display × Bool) : Toggles (fun _ _ => false) acc acc :=
  ⟨fun _ _ => (Bool.xor_false _).symm, by simp⟩

theorem Toggles.congr {p q : Nat → Nat → Bool} {a b : Display × Bool} (h : Toggles p a b)
    (hpq : ∀ r c, q r c = p r c) : Toggles q a b :=
  funext₂ hpq ▸ h

/-- Parts of a draw that share no pixel add up. -/
theorem Toggles.trans {p q : Nat → Nat → Bool} {a b c : Display × Bool} (hp : Toggles p a b) (hq : Toggles q b c)
    (hdisjoint : ∀ row col, p row col = true → q row col = false) :
    Toggles (fun row col => p row col || q row col) a c := by
  have hkept (row col : Nat) (h : q row col = true) : b.1.pixel row col = a.1.pixel row col := by
    have hout : p row col = false := Bool.eq_false_iff.2 fun e => by simp [hdisjoint row col e] at h
    rw [hp.pixel, hout, Bool.xor_false]
  refine ⟨fun row col => ?_, ?_⟩
  · rw [hq.pixel, hp.pixel]
    cases hin : p row col
    · simp
    · simp [hdisjoint row col hin]
  · have hset : (∃ row col, b.1.pixel row col = true ∧ q row col = true) ↔
        ∃ row col, a.1.pixel row col = true ∧ q row col = true :=
      exists₂_congr fun row col => and_congr_left fun h => by rw [hkept row col h]
    simp only [hq.collision, hp.collision, hset, Bool.or_eq_true, and_or_left, exists_or, or_assoc]

/-- A loop whose round `j` toggles the pixels of `p` with index `j` toggles those with an index below its bound. -/
theorem toggles_foldl_range {index : Nat → Nat → Nat} {p : Nat → Nat → Bool}
    {f : Display × Bool → Nat → Display × Bool} (k : Nat)
    (hround : ∀ j < k, ∀ acc, Toggles (fun r c => decide (index r c = j) && p r c) acc (f acc j))
    (acc : Display × Bool) :
    Toggles (fun r c => decide (index r c < k) && p r c) acc ((List.range k).foldl f acc) := by
  induction k with
  | zero => simpa using Toggles.none acc
  | succ k ih =>
    have hbelow := ih fun j hj => hround j (Nat.lt_succ_of_lt hj)
    have hlast := hround k (Nat.lt_succ_self k) ((List.range k).foldl f acc)
    rw [List.range_succ, List.foldl_append]
    refine (hbelow.trans hlast fun r c h => ?_).congr fun r c => ?_
    · obtain ⟨hlt, -⟩ : index r c < k ∧ p r c = true := by simpa using h
      simp [hlt.ne]
    · rw [← Bool.and_or_distrib_right, ← Bool.decide_or, decide_eq_decide.2 Nat.lt_succ_iff_lt_or_eq]

/-! ### The index of a pixel in each loop -/

/-- The sprite row that falls on display row `r` when the first falls on row `y0`. -/
def spriteRow (y0 r : Nat) : Nat := (r + 32 - y0 % 32) % 32

/-- The sprite column that falls on display column `c` when the first falls on column `x0`. -/
def spriteCol (x0 c : Nat) : Nat := (c + 64 - x0 % 64) % 64

theorem spriteOn_eq (m : Memory) (base x0 y0 n r c : Nat) : spriteOn m base x0 y0 n r c =
    (decide (spriteRow y0 r < n) && (decide (spriteCol x0 c < 8) &&
      spriteBit (Memory.read m (base + spriteRow y0 r)) (spriteCol x0 c))) :=
  Bool.and_assoc _ _ _

theorem spriteRow_eq_iff {y0 r j : Nat} (hj : j < 32) : spriteRow y0 r = j ↔ r % 32 = (y0 + j) % 32 := by
  unfold spriteRow; omega

theorem spriteCol_eq_iff {x0 c j : Nat} (hj : j < 64) : spriteCol x0 c = j ↔ c % 64 = (x0 + j) % 64 := by
  unfold spriteCol; omega

/-- What is said of an index may be said of the one value a condition allows it. -/
theorem decide_and_congr {a b : Nat} {P : Prop} [Decidable P] (h : a = b ↔ P) (g : Nat → Bool) :
    (decide (a = b) && g a) = (decide P && g b) := by
  by_cases hab : a = b
  · simp [hab, ← h]
  · simp [hab, ← h]

/-! ### The draw of a pixel, of a row, of a sprite (R171) -/

theorem toggles_drawPixel (r c : Nat) (sprite : Bool) (acc : Display × Bool) :
    Toggles (fun r' c' => decide (c' % 64 = c % 64) && (decide (r' % 32 = r % 32) && sprite)) acc
      (drawPixel r c sprite acc) := by
  have hsame {r' c' : Nat} (hr : r' % 32 = r % 32) (hc : c' % 64 = c % 64) : acc.1.pixel r' c' = acc.1.pixel r c := by
    rw [← pixel_mod, hr, hc, pixel_mod]
  refine ⟨fun r' c' => ?_, ?_⟩
  · rw [drawPixel, pixel_setPixel]
    split
    next h => simp [hsame h.1 h.2, h]
    next h =>
      rw [← Bool.and_assoc, ← Bool.decide_and, decide_eq_false (mt And.symm h), Bool.false_and, Bool.xor_false]
  · simp only [drawPixel, Bool.or_eq_true, Bool.and_eq_true, decide_eq_true_eq]
    refine or_congr_right ⟨fun ⟨hset, hunset⟩ => ⟨r, c, hset, rfl, rfl, ?_⟩, ?_⟩
    · simpa [hset] using hunset
    · rintro ⟨r', c', hset, hc, hr, hsprite⟩
      rw [hsame hr hc] at hset
      simp [hset, hsprite]

theorem toggles_drawRow (r x0 : Nat) (b : Byte) (acc : Display × Bool) :
    Toggles (fun r' c' => decide (spriteCol x0 c' < 8) && (decide (r' % 32 = r % 32) && spriteBit b (spriteCol x0 c')))
      acc (drawRow r x0 b acc) := by
  refine toggles_foldl_range (index := fun _ c' => spriteCol x0 c') 8 (fun bit hbit acc => ?_) acc
  refine (toggles_drawPixel r (x0 + bit) (spriteBit b bit) acc).congr fun r' c' => ?_
  exact decide_and_congr (spriteCol_eq_iff (by omega)) (fun col => decide (r' % 32 = r % 32) && spriteBit b col)

/-- A whole draw toggles the pixels the sprite falls on. -/
theorem toggles_drawRows (m : Memory) (base x0 y0 : Nat) {n : Nat} (hn : n ≤ 32) (d : Display) :
    Toggles (spriteOn m base x0 y0 n) (d, false) (drawRows m base x0 y0 n d) := by
  refine Toggles.congr ?_ (spriteOn_eq m base x0 y0 n)
  refine toggles_foldl_range (index := fun r _ => spriteRow y0 r) n (fun row hrow acc => ?_) (d, false)
  refine (toggles_drawRow (y0 + row) x0 (Memory.read m (base + row)) acc).congr fun r c => ?_
  rw [Bool.and_left_comm (decide (spriteCol x0 c < 8))]
  exact decide_and_congr (spriteRow_eq_iff (by omega))
    (fun k => decide (spriteCol x0 c < 8) && spriteBit (Memory.read m (base + k)) (spriteCol x0 c))

/-- Every pixel of the sprite falls somewhere on the display, so it shows a set pixel when a byte of it is not 0. -/
theorem exists_spriteOn_iff (m : Memory) (base x0 y0 : Nat) {n : Nat} (hn : n ≤ 32) :
    (∃ r c, spriteOn m base x0 y0 n r c = true) ↔ ∃ k < n, Memory.read m (base + k) ≠ 0x00#8 := by
  simp only [spriteOn_eq, Bool.and_eq_true, decide_eq_true_eq]
  constructor
  · rintro ⟨r, c, hrow, -, hbit⟩
    refine ⟨_, hrow, fun hzero => ?_⟩
    simp [spriteBit, hzero] at hbit
  · rintro ⟨k, hk, hne⟩
    obtain ⟨j, hj, hset⟩ : ∃ j < 8, (Memory.read m (base + k)).getLsbD j = true := by
      by_contra! hclear
      exact hne (BitVec.eq_of_getLsbD_eq fun j hj => by simpa using hclear j hj)
    have hrow : spriteRow y0 (y0 + k) = k := (spriteRow_eq_iff (by omega)).2 rfl
    have hcol : spriteCol x0 (x0 + (7 - j)) = 7 - j := (spriteCol_eq_iff (by omega)).2 rfl
    refine ⟨y0 + k, x0 + (7 - j), hrow.symm ▸ hk, by omega, ?_⟩
    rwa [hrow, hcol, spriteBit, show 7 - (7 - j) = j by omega]

/-! ### The collision of a draw that starts with none, and of two draws in a row -/

section

variable {p : Nat → Nat → Bool} {d e f : Display} {hit hit' : Bool}

/-- The collision is a pixel of the display that goes from set to unset. -/
theorem Toggles.hit_iff (h : Toggles p (d, false) (e, hit)) :
    hit = true ↔ ∃ r c : Nat, r < 32 ∧ c < 64 ∧ d.pixel r c = true ∧ e.pixel r c = false := by
  refine h.collision.trans ⟨?_, fun ⟨r, c, _, _, hset, hunset⟩ => .inr ⟨r, c, hset, ?_⟩⟩
  · rintro (hno | ⟨r, c, hset, hon⟩)
    · cases hno
    · have hunset : e.pixel r c = false := by rw [h.pixel, hset, hon]; rfl
      exact ⟨r % 32, c % 64, Nat.mod_lt r (by decide), Nat.mod_lt c (by decide),
        (pixel_mod d r c).trans hset, (pixel_mod e r c).trans hunset⟩
  · simpa [hset] using (h.pixel r c).symm.trans hunset

/-- Toggling the same pixels again gives the display back. -/
theorem Toggles.disp_eq_of_twice (h : Toggles p (d, false) (e, hit)) (h' : Toggles p (e, false) (f, hit')) : f = d :=
  display_ext fun r c _ _ => by rw [h'.pixel, h.pixel, Bool.xor_assoc, Bool.xor_self, Bool.xor_false]

/-- On a clear display nothing is there to collide with. -/
theorem Toggles.hit_eq_false_of_clear (h : Toggles p (Display.clear, false) (e, hit)) : hit = false := by
  rw [← Bool.not_eq_true, h.collision]
  simp

/-- Toggling again what was toggled on a clear display meets every toggled pixel set. -/
theorem Toggles.hit_iff_of_clear_twice (h : Toggles p (Display.clear, false) (e, hit))
    (h' : Toggles p (e, false) (f, hit')) : hit' = true ↔ ∃ r c, p r c = true := by
  have hpixel (r c : Nat) : e.pixel r c = p r c := by rw [h.pixel, pixel_clear, Bool.false_xor]
  rw [h'.collision]
  simp [hpixel]

end

/-! ### The instruction -/

theorem flagByte_eq_one_iff (c : Bool) : flagByte c = 0x01#8 ↔ c = true := by
  cases c <;> decide

/-- A draw whose sprite bytes lie within memory toggles the sprite's pixels, sets `VF` to the collision, and leaves
every other register and field. -/
theorem exec_drawSprite_toggles {n : Nibble} {s : State} (h : n.toNat = 0 ∨ s.i.toNat + n.toNat - 1 ≤ 0xFFFF)
    (x y : Nibble) : ∃ t hit, exec (.drawSprite x y n) s = .next t ∧
      Toggles (spriteOn s.mem s.i.toNat (s.reg x).toNat (s.reg y).toNat n.toNat) (s.disp, false) (t.disp, hit) ∧
      t.reg vf = flagByte hit ∧ (∀ r, r ≠ vf → t.reg r = s.reg r) ∧
      t = { s with v := t.v, disp := t.disp, pc := s.pc + 2, run := .fetching } := by
  have hfits : accessFaults (dataBase s) n.toNat = false := by
    rw [accessFaults_eq_false, dataBase, memLimit]; omega
  exact ⟨_, _, exec_drawSprite_of_fits hfits x y, toggles_drawRows _ _ _ _ (by omega) _,
    reg_setReg_same _ vf _, fun _ hr => reg_setReg_ne _ _ hr, rfl⟩

end Sys2Proof.Machine
end

section
/-! PROOFS. The statements about the display (44_display.md), each from the lemmas above. -/

namespace Sys2Proof.Proofs

open Sys2Proof Sys2Proof.Machine

/-- Settles O54: the draw toggles the sprite's pixels and sets the flag of its collision; a row of the fault table where
the bytes do not fit. -/
theorem drawSpriteXorsTheSpriteOntoTheDisplay : Obligations.DrawSpriteXorsTheSpriteOntoTheDisplay := by
  refine fun x y n s => ⟨encodes_of_wellFormed (i := .drawSprite x y n) rfl, fun hfit => ?_,
    fun hn hover => exec_of_faultOf_eq_some (i := .drawSprite x y n) (if_pos ⟨hn, hover⟩)⟩
  obtain ⟨t, hit, hexec, hdraw, hflag, hregs, hframe⟩ := exec_drawSprite_toggles hfit x y
  exact ⟨t, hexec, fun r c _ _ => hdraw.pixel r c, hflag ▸ ite_eq_or_eq _ _ _,
    hflag ▸ (flagByte_eq_one_iff hit).trans hdraw.hit_iff, hregs, hframe⟩

/-- Settles O55: the second draw finds the coordinates, `I` and memory of the first, so it toggles the same pixels. -/
theorem drawingTwiceRestoresTheDisplay : Obligations.DrawingTwiceRestoresTheDisplay := by
  intro x y n s hx hy hfit
  obtain ⟨t, hit, hexec, hdraw, hflag, hregs, hframe⟩ := exec_drawSprite_toggles hfit x y
  have hi : t.i = s.i := (congrArg State.i hframe :)
  have hmem : t.mem = s.mem := (congrArg State.mem hframe :)
  obtain ⟨u, hit', hexec', hdraw', hflag', -⟩ := exec_drawSprite_toggles (s := t) (by rwa [hi]) x y
  rw [hi, hmem, hregs x hx, hregs y hy] at hdraw'
  refine ⟨t, u, hexec, hexec', hdraw.disp_eq_of_twice hdraw', fun hclear => ?_⟩
  rw [hclear] at hdraw
  refine ⟨hflag.trans (congrArg flagByte hdraw.hit_eq_false_of_clear), ?_⟩
  calc u.reg 0xF#4 = 0x01#8
    _ ↔ hit' = true := hflag' ▸ flagByte_eq_one_iff hit'
    _ ↔ ∃ r c, Claims.spriteOn s.mem s.i.toNat (s.reg x).toNat (s.reg y).toNat n.toNat r c = true :=
      hdraw.hit_iff_of_clear_twice hdraw'
    _ ↔ ∃ k < n.toNat, s.readByte (s.i.toNat + k) ≠ 0x00#8 := exists_spriteOn_iff _ _ _ _ (by omega)

/-- Settles O52: the display written is the clear one. -/
theorem clearScreenZeroesThePixels : Obligations.ClearScreenZeroesThePixels :=
  ⟨encodes_of_wellFormed (i := .clearScreen) rfl, fun _ => ⟨_, rfl, pixel_clear, rfl⟩⟩

end Sys2Proof.Proofs
end

section
/-! PROOFS. Random, keys, timers (45_random_keys_timers.md): what an instruction leaves that consults the environment,
what a supplied key leaves (60_exceptions.md R208), and the delay timer through a write and a tick (R206). -/

namespace Sys2Proof.Machine

variable {i : Instr} {s : State} {x : Nibble} {b : Byte}

/-! ### A consultation of the environment, with a register written or with a skip (R10, R180 to R182) -/

/-- An instruction that writes `V[x]`, ends a consultation and advances leaves every other register and field. -/
theorem exec_of_setReg_nextDraw (h : kernel i s = .ok (s.setReg x b).nextDraw .advance) :
    ∃ t, exec i s = .next t ∧ t.reg x = b ∧ (∀ r, r ≠ x → t.reg r = s.reg r) ∧
      t = { s with v := t.v, pc := s.pc + 2, run := .fetching, draws := s.draws + 1 } :=
  ⟨_, exec_of_ok h, reg_setReg_same s x b, fun _ hr => reg_setReg_ne s b hr, rfl⟩

/-- An instruction that only ends a consultation and skips on a condition moves `pc` by 4 or by 2. -/
theorem exec_of_skip_nextDraw {c : Prop} [Decidable c]
    (h : kernel i s = .ok s.nextDraw (if c then .skipNext else .advance)) :
    exec i s = .next { s with
      run := .fetching, draws := s.draws + 1, pc := if c then s.pc + 4 else s.pc + 2 } := by
  rw [exec_of_ok h, State.commit, apply_ite (pcPolicy · s.pc), pcPolicy_skipNext, pcPolicy_advance]; rfl

/-- skip-if-key-not-pressed advances on a key that is down; that is, it skips on one that is up. -/
theorem kernel_skipIfKeyNotPressed (x : Nibble) (s : State) : kernel (.skipIfKeyNotPressed x) s =
    .ok s.nextDraw (if keyDown s (s.reg x) = false then .skipNext else .advance) := by
  have hkernel : kernel (.skipIfKeyNotPressed x) s =
      .ok s.nextDraw (if keyDown s (s.reg x) = true then .advance else .skipNext) := rfl
  rw [hkernel]
  cases keyDown s (s.reg x) <;> rfl

/-- A bit that the mask has clear is clear in the masked byte. -/
theorem getLsbD_and_of_mask_clear {kk : Byte} {k : Nat} (h : kk.getLsbD k = false) (b : Byte) :
    (b &&& kk).getLsbD k = false := by
  rw [BitVec.getLsbD_and, h, Bool.and_false]

/-! ### A key supplied in a wait (R208) -/

/-- In a key wait the host's key goes to the waiting register, modulo 256, and the engine fetches after the
instruction. -/
theorem hostCall_supplyKey_of_waiting (h : s.run = .haltedOnKey) (value : Nat) :
    ∃ t, hostCall (.supplyKey value) s = .next t ∧ (t.reg s.keyDst).toNat = value % 256 ∧
      (∀ r, r ≠ s.keyDst → t.reg r = s.reg r) ∧ t = { s with v := t.v, pc := s.pc + 2, run := .fetching } := by
  refine ⟨_, congrArg Host.Outcome.next (supplyKey_of_waiting h value), ?_, fun _ hr => reg_setReg_ne s _ hr, rfl⟩
  exact (congrArg BitVec.toNat (reg_setReg_same s s.keyDst _)).trans (BitVec.toNat_ofNat value 8)

/-! ### The delay timer written, ticked and read (R184, R185, R206) -/

theorem exec_loadToDelayTimer (x : Nibble) (s : State) :
    exec (.loadToDelayTimer x) s = .next (s.commit (s.setDt (s.reg x)) .advance) := rfl

/-- A tick leaves a delay timer that was just written at one less than the byte written, saturating at 0. -/
theorem toNat_dt_tickTimers_written (s : State) (b : Byte) :
    (s.commit (s.setDt b) .advance).tickTimers.dt.toNat = b.toNat - 1 := by
  rw [dt_tickTimers, dt_commit, dt_setDt, toNat_countDown]

end Sys2Proof.Machine
end

section
/-! PROOFS. The statements about random, keys and timers (45_random_keys_timers.md), each from the lemmas above. -/

namespace Sys2Proof.Proofs

open Sys2Proof Sys2Proof.Machine

/-- Settles O56: the byte written is the environment's, masked. -/
theorem randomAndMaskWritesTheMaskedByte : Obligations.RandomAndMaskWritesTheMaskedByte := by
  intro x kk s
  obtain ⟨t, hexec, hx, hframe⟩ := exec_of_setReg_nextDraw (i := .randomAndMask x kk) (s := s) rfl
  exact ⟨encodes_of_wellFormed (i := .randomAndMask x kk) rfl, t, hexec, hx,
    fun _ hk => hx ▸ getLsbD_and_of_mask_clear hk _, hframe⟩

/-- Settles O57: both ask about the key numbered `V[x]` and write nothing but the count of consultations. -/
theorem keySkipsAskAboutTheRegister : Obligations.KeySkipsAskAboutTheRegister :=
  fun x s => ⟨encodes_of_wellFormed (i := .skipIfKeyPressed x) rfl, exec_of_skip_nextDraw rfl,
    encodes_of_wellFormed (i := .skipIfKeyNotPressed x) rfl, exec_of_skip_nextDraw (kernel_skipIfKeyNotPressed x s)⟩

/-- Settles O58: the kernel answers a key wait, and the state it leaves is one that a supplied key resolves. -/
theorem loadFromKeyBlockingWaitsForTheHost : Obligations.LoadFromKeyBlockingWaitsForTheHost :=
  fun x _ => ⟨encodes_of_wellFormed (i := .loadFromKeyBlocking x) rfl, exec_of_awaitKey rfl,
    hostCall_supplyKey_of_waiting rfl⟩

/-- Settles O59: the read finds the timer as the tick left it. -/
theorem timerWrittenThenTickedReadsOneLess : Obligations.TimerWrittenThenTickedReadsOneLess := by
  intro x y s
  obtain ⟨w, hread, hy, -⟩ := exec_of_setReg (i := .loadFromDelayTimer y)
    (s := (s.commit (s.setDt (s.reg x)) .advance).tickTimers) rfl
  exact ⟨encodes_of_wellFormed (i := .loadFromDelayTimer y) rfl, encodes_of_wellFormed (i := .loadToDelayTimer x) rfl,
    encodes_of_wellFormed (i := .loadToSoundTimer x) rfl, _, _, w, exec_loadToDelayTimer x s, rfl, hread,
    hy ▸ toNat_dt_tickTimers_written s (s.reg x)⟩

end Sys2Proof.Proofs
end

section
/-! PROOFS. The Engine around an instruction (60_exceptions.md R196 to R205): the word it fetches, the result it returns,
which instruction waits, and that no instruction looks at `RUN` or `FAULTREC` (R201). -/

namespace Sys2Proof.Machine

open Sys2Proof.Claims

variable {i : Instr} {s t : State}

/-! ### Fetch and result -/

/-- Below the last address the fetch gives the word of the two bytes at `pc`, high byte first (R53, R63). -/
theorem fetch_eq_some_of_toNat {w : Word} (hpc : s.pc.toNat < 0xFFFF)
    (hw : w.toNat = (s.readByte s.pc.toNat).toNat * 256 + (s.readByte (s.pc.toNat + 1)).toNat) : fetch s = some w := by
  rw [fetch_of_lt hpc, BitVec.eq_of_toNat_eq (hw.trans (toNat_wordOfBytes _ _).symm)]

theorem stepResult_of_fetching (h : s.run = .fetching) : stepResult s = .continue_ := by
  rw [stepResult, h]

theorem stepResult_of_haltedOnKey (h : s.run = .haltedOnKey) : stepResult s = .awaitingKey := by
  rw [stepResult, h]

theorem stepResult_of_haltedOnFault {f : FaultRec} (h : s.run = .haltedOnFault) (hf : s.faultRec = some f) :
    stepResult s = .fault (some f.kind) := by
  rw [stepResult, h, hf]; rfl

@[simp] theorem stepResult_halt (s : State) (k : FaultKind) (o : Option Word) :
    stepResult (s.halt k o) = .fault (some k) := rfl

/-! ### The only wait (R204) -/

theorem eq_loadFromKeyBlocking_of_run (h : exec i s = .next t) (hr : t.run = .haltedOnKey) :
    ∃ x, i = .loadFromKeyBlocking x := by
  obtain ⟨w, a, -, rfl⟩ | ⟨x, hk, -⟩ | ⟨f, -, rfl⟩ := exec_cases h
  · simp at hr
  · exact ⟨x, kernel_eq_awaitKey hk⟩
  · simp at hr

/-- An instruction that neither faults nor waits goes on. -/
theorem stepResult_of_exec_continue (h : exec i s = .next t) (hn : faultOf i s = none)
    (hi : ∀ x, i ≠ .loadFromKeyBlocking x) : stepResult t = .continue_ := by
  obtain ⟨hr | hr, -⟩ := run_and_faultRec_of_faultOf_eq_none hn h
  · exact stepResult_of_fetching hr
  · obtain ⟨x, rfl⟩ := eq_loadFromKeyBlocking_of_run h hr
    exact absurd rfl (hi x)

/-! ### No instruction looks at `RUN` or `FAULTREC` (R201) -/

/-- The state with another `RUN` and another `FAULTREC`. -/
def State.withEngine (s : State) (r : RunState) (f : Option FaultRec) : State := { s with run := r, faultRec := f }

/-- An answer guarded by a fault condition is another one blanked, where its written state is. -/
theorem guarded_eq_blank_guarded {m : State → State} {c : Prop} [Decidable c] {f : FaultKind} {w w' : State}
    {a : PcAction} (h : w' = m w) :
    (if c then KernelResult.fault f else .ok w' a) = (if c then KernelResult.fault f else .ok w a).blank m := by
  subst h
  split <;> rfl

/-- The kernel passes `RUN` and `FAULTREC` through: with others before, it gives the same answer with those after. -/
theorem kernel_withEngine (i : Instr) (s : State) (r : RunState) (f : Option FaultRec) :
    kernel i (s.withEngine r f) = (kernel i s).blank (·.withEngine r f) := by
  cases i
  case call =>
    obtain ⟨h, hp⟩ | ⟨h, hp⟩ := push_cases s s.pc
    · simp only [kernel, kernelCall, hp, push_of_full (s := s.withEngine r f) h, KernelResult.blank]
    · simp only [kernel, kernelCall, hp, push_of_lt (s := s.withEngine r f) h, KernelResult.blank]; rfl
  case ret =>
    obtain ⟨h, hp⟩ | ⟨h, hp⟩ := pop_cases s
    · simp only [kernel, kernelRet, hp, pop_of_empty (s := s.withEngine r f) h, KernelResult.blank]
    · simp only [kernel, kernelRet, hp, pop_of_pos (s := s.withEngine r f) h, KernelResult.blank]; rfl
  case storeBcd | storeRegistersToMemory | loadRegistersFromMemory | drawSprite =>
    exact guarded_eq_blank_guarded rfl
  all_goals rfl

/-- With another `RUN` and `FAULTREC` before, an instruction leaves the same state, but for the record where it does not
write one itself. -/
theorem exec_withEngine (h : exec i s = .next t) (r : RunState) (f : Option FaultRec) :
    exec i (s.withEngine r f) = .next (if t.run = .haltedOnFault then t else { t with faultRec := f }) := by
  have hkernel := kernel_withEngine i s r f
  obtain ⟨w, a, hk, rfl⟩ | ⟨x, hk, rfl⟩ | ⟨k, hk, rfl⟩ := exec_cases h <;> rw [hk] at hkernel
  · exact exec_of_ok hkernel
  · exact exec_of_awaitKey hkernel
  · exact exec_of_fault hkernel

/-- An instruction makes no fault record but by halting. -/
theorem faultRec_eq_of_exec (h : exec i s = .next t) (hr : t.run ≠ .haltedOnFault) : t.faultRec = s.faultRec := by
  obtain ⟨w, a, hk, rfl⟩ | ⟨x, -, rfl⟩ | ⟨f, -, rfl⟩ := exec_cases h
  · exact (written_of_kernel hk).faultRec_eq
  · rfl
  · exact absurd rfl hr

/-- An instruction does not look at `RUN`. -/
theorem exec_setRun (i : Instr) (s : State) (r : RunState) : exec i (s.setRun r) = exec i s := by
  obtain ⟨t, ht⟩ := exec_eq_next i s
  have hrun : exec i (s.setRun r) = _ := exec_withEngine ht r s.faultRec
  rw [hrun, ht]
  split
  · rfl
  · rw [← faultRec_eq_of_exec ht ‹_›]

/-- A step whose word decodes to `i` is `exec i`: the step sets `RUN` to `Executing`, which `i` does not look at. -/
theorem step_eq_exec {w : Word} (hr : s.run = .fetching) (hf : fetch s = some w) (hd : decodeWord w = .ok i) :
    step s = exec i s :=
  (step_of_decode_ok hr hf hd).trans (exec_setRun i s .executing)

end Sys2Proof.Machine
end

section
/-! PROOFS. Schedules of host calls (60_exceptions.md R205 to R209): the induction over a schedule, and what one call
does to the invariant and to a key wait. -/

namespace Sys2Proof.Machine

variable {s t : State} {c : HostCall} {cs : List HostCall}

/-! ### A schedule, call by call -/

theorem runCalls_cons_of_next (h : hostCall c s = .next t) (cs : List HostCall) :
    runCalls (c :: cs) s = runCalls cs t := by
  rw [runCalls, h]

theorem runCalls_cons_of_refused {r : Refusal} (h : hostCall c s = .refused r) (cs : List HostCall) :
    runCalls (c :: cs) s = .refused r := by
  rw [runCalls, h]

/-- The induction over a schedule: where each of its calls keeps `P` or is refused as a call of the kind `Q`, the whole
schedule does. -/
theorem runCalls_keeps_or_refused {P : State → Prop} {Q : HostCall → Prop} {r : Refusal}
    (hcall : ∀ c ∈ cs, ∀ u, P u → (∃ t, hostCall c u = .next t ∧ P t) ∨ (hostCall c u = .refused r ∧ Q c)) (hs : P s) :
    (∃ t, runCalls cs s = .next t ∧ P t) ∨ (runCalls cs s = .refused r ∧ ∃ c ∈ cs, Q c) := by
  induction cs generalizing s with
  | nil => exact .inl ⟨s, rfl, hs⟩
  | cons c cs ih =>
    obtain ⟨hhead, htail⟩ := List.forall_mem_cons.1 hcall
    obtain ⟨t, ht, hP⟩ | ⟨hc, hQ⟩ := hhead s hs
    · rw [runCalls_cons_of_next ht]
      exact (ih htail hP).imp_right fun ⟨hrun, c', hc', hQ⟩ => ⟨hrun, c', List.mem_cons_of_mem c hc', hQ⟩
    · exact .inr ⟨runCalls_cons_of_refused hc cs, c, List.mem_cons_self, hQ⟩

/-- A schedule whose calls all keep `P` keeps it. -/
theorem runCalls_keeps {P : State → Prop} (hcall : ∀ c ∈ cs, ∀ u, P u → ∃ t, hostCall c u = .next t ∧ P t) (hs : P s) :
    ∃ t, runCalls cs s = .next t ∧ P t :=
  (runCalls_keeps_or_refused (Q := fun _ => False) (r := .programTooLong)
    (fun c hc u hu => .inl (hcall c hc u hu)) hs).resolve_right fun ⟨_, _, _, hfalse⟩ => hfalse

/-! ### The invariant -/

/-- A key supplied keeps the invariant: in a wait there is no fault record, and the engine then fetches. -/
theorem inv_supplyKey (hs : s.Inv) (value : Nat) : (s.supplyKey value).Inv := by
  by_cases hr : s.run = .haltedOnKey
  · obtain ⟨hm, -, hrec⟩ := hs
    rw [supplyKey_of_waiting hr]
    exact ⟨hm, by simp, by simpa [hr] using hrec⟩
  · rwa [supplyKey_of_not_waiting hr]

/-- Every host call keeps the invariant, but for the load of a program that does not fit, which is refused. -/
theorem inv_of_hostCall (c : HostCall) (hs : s.Inv) :
    (∃ t, hostCall c s = .next t ∧ t.Inv) ∨
    (hostCall c s = .refused .programTooLong ∧ ∃ bs, c = .loadProgram bs ∧ 65024 < bs.length) := by
  cases c with
  | reset => exact .inl ⟨_, rfl, Proofs.resetMeetsTheInvariant⟩
  | loadProgram bs =>
    obtain ⟨hm, hrun, hrec⟩ := hs
    obtain hfit | hlong := le_or_gt bs.length 65024
    · exact .inl ⟨_, loadProgram_of_fits hfit s, wf_writeBytes hm (programEnd_le hfit), hrun, hrec⟩
    · exact .inr ⟨loadProgram_of_too_long hlong s, bs, rfl, hlong⟩
  | step => exact .inl (Proofs.everyStepKeepsTheInvariant s hs)
  | tickTimers => exact .inl ⟨_, rfl, hs⟩
  | supplyKey value => exact .inl ⟨_, rfl, inv_supplyKey hs value⟩
  | displaySnapshot => exact .inl ⟨s, rfl, hs⟩

/-! ### The halted engine (R203, R204) -/

theorem step_of_halted (h : s.run = .haltedOnFault ∨ s.run = .haltedOnKey) : step s = .next s :=
  h.elim step_of_haltedOnFault step_of_haltedOnKey

theorem run_of_loadProgram {bs : List Byte} (h : s.loadProgram bs = .next t) : t.run = s.run := by
  obtain hfit | hlong := le_or_gt bs.length 65024
  · cases h.symm.trans (loadProgram_of_fits hfit s)
    rfl
  · cases h.symm.trans (loadProgram_of_too_long hlong s)

/-- A step, a tick or a snapshot in a key wait changes the timers at most. -/
theorem hostCall_of_waiting (hc : c = .step ∨ c = .tickTimers ∨ c = .displaySnapshot) (hr : s.run = .haltedOnKey) :
    ∃ t, hostCall c s = .next t ∧ t = { s with dt := t.dt, st := t.st } := by
  obtain rfl | rfl | rfl := hc
  · exact ⟨s, step_of_haltedOnKey hr, rfl⟩
  · exact ⟨_, rfl, rfl⟩
  · exact ⟨s, rfl, rfl⟩

/-- Only a reset or a key ends a key wait. -/
theorem endsWait_of_run_ne (h : hostCall c s = .next t) (hr : s.run = .haltedOnKey) (hne : t.run ≠ .haltedOnKey) :
    c = .reset ∨ ∃ value, c = .supplyKey value := by
  cases c with
  | reset => exact .inl rfl
  | supplyKey value => exact .inr ⟨value, rfl⟩
  | loadProgram bs => exact absurd ((run_of_loadProgram h).trans hr) hne
  | step =>
    cases h.symm.trans (step_of_haltedOnKey hr)
    exact absurd hr hne
  | tickTimers => cases h; exact absurd hr hne
  | displaySnapshot => cases h; exact absurd hr hne

end Sys2Proof.Machine
end

section
/-! PROOFS. The statements about the Engine and the host's calls (60_exceptions.md), each from the lemmas above. -/

namespace Sys2Proof.Proofs

open Sys2Proof Sys2Proof.Machine Sys2Proof.Claims

/-- Settles O14: the induction over the schedule, one call at a time. -/
theorem everySchedulePreservesTheInvariant : Obligations.EverySchedulePreservesTheInvariant := by
  intro cs s hs
  refine (runCalls_keeps_or_refused (fun c _ u hu => inv_of_hostCall c hu) hs).imp_right ?_
  rintro ⟨hrefused, _, hc, bs, rfl, hlong⟩
  exact ⟨hrefused, bs, hc, hlong⟩

/-- Settles O10: a step in a halted state is the identity, so any number of them is. -/
theorem haltedEnginesStayAsTheyAre : Obligations.HaltedEnginesStayAsTheyAre := by
  intro n s hs
  have hcall : ∀ c ∈ List.replicate n HostCall.step, ∀ u, u = s → ∃ t, hostCall c u = .next t ∧ t = s := by
    rintro c hc _ rfl
    rw [List.eq_of_mem_replicate hc]
    exact ⟨_, step_of_halted hs, rfl⟩
  obtain ⟨_, hrun, rfl⟩ := runCalls_keeps hcall rfl
  exact ⟨hrun, stepResult_of_haltedOnKey, fun _ => stepResult_of_haltedOnFault⟩

/-- Settles O17: the kernel passes both fields through, and the end of a step overwrites `RUN`. -/
theorem noInstructionReadsRunOrFaultRecord : Obligations.NoInstructionReadsRunOrFaultRecord := by
  intro i s t r f h
  refine ⟨_, exec_withEngine h r f, ?_⟩
  split <;> exact ⟨rfl, rfl⟩

/-- Settles O22: the kernel's one key wait, the induction over the schedule, and the calls one by one. -/
theorem theKeyWaitKeepsAllButTheTimers : Obligations.TheKeyWaitKeepsAllButTheTimers := by
  refine ⟨fun _ _ _ => eq_loadFromKeyBlocking_of_run, ?_, fun _ _ _ hr h => endsWait_of_run_ne h hr⟩
  intro cs s hr hcs
  refine runCalls_keeps (P := fun t => t = { s with dt := t.dt, st := t.st }) (fun c hc u hu => ?_) rfl
  obtain ⟨t, ht, hframe⟩ := hostCall_of_waiting (s := u) (hcs c hc) (hu ▸ hr)
  refine ⟨t, ht, ?_⟩
  rw [hframe, hu]

/-- Settles O60: the step's cases, with the fault table for an instruction that runs. -/
theorem stepReturnsWhatItDid : Obligations.StepReturnsWhatItDid := by
  intro s hr
  cases hf : fetch s with
  | none => exact ⟨_, step_of_fetch_none hr hf, fun _ => stepResult_halt s _ _, nofun, nofun⟩
  | some w =>
    cases hd : decodeWord w with
    | error e =>
      refine ⟨_, step_of_decode_error hr hf hd, nofun, fun _ _ _ _ => stepResult_halt s _ _, ?_⟩
      rintro _ i ⟨⟩ hok
      cases hok.symm.trans hd
    | ok i =>
      obtain ⟨t, ht⟩ := exec_eq_next i s
      refine ⟨t, (step_eq_exec hr hf hd).trans ht, nofun, ?_, ?_⟩
      · rintro _ e ⟨⟩ herror
        cases herror.symm.trans hd
      · rintro _ i' ⟨⟩ hok
        cases hok.symm.trans hd
        refine ⟨fun k hk => ?_, ?_, stepResult_of_exec_continue ht⟩
        · cases ht.symm.trans (exec_of_faultOf_eq_some hk)
          exact stepResult_halt s k _
        · rintro - ⟨x, rfl⟩
          cases ht
          exact stepResult_of_haltedOnKey rfl

/-- Settles O8: the two bytes are the word fetched, and no instruction looks at `RUN`. -/
theorem stepRunsTheDecodedInstruction : Obligations.StepRunsTheDecodedInstruction :=
  fun s _ i hr hpc hw hd =>
    ⟨step_of_decode_ok hr (fetch_eq_some_of_toNat hpc hw) hd, exec_setRun i s .executing⟩

/-- Settles O9: the fetch finds no word at the last address, and below it the word of the two bytes. -/
theorem stepHaltsOnFetchAndDecodeFaults : Obligations.StepHaltsOnFetchAndDecodeFaults :=
  ⟨fun _ hr hpc => step_of_fetch_none hr (fetch_of_last (congrArg BitVec.toNat hpc)),
    fun _ _ _ hr hpc hw hd => step_of_decode_error hr (fetch_eq_some_of_toNat hpc hw) hd⟩

/-- Settles O20: each timer by `toNat_countDown`, whatever `RUN` is. -/
theorem tickTimersCountsBothTimersDown : Obligations.TickTimersCountsBothTimersDown :=
  fun s => ⟨s.tickTimers, rfl, toNat_countDown s.dt, toNat_countDown s.st, rfl⟩

/-- Settles O21: the two cases of `supplyKey`. -/
theorem supplyKeyResolvesOnlyAKeyWait : Obligations.SupplyKeyResolvesOnlyAKeyWait :=
  fun _ value => ⟨fun hr => congrArg Host.Outcome.next (supplyKey_of_not_waiting hr value),
    fun hr => hostCall_supplyKey_of_waiting hr value⟩

end Sys2Proof.Proofs
end
